-- ==== Sys2Proof/Word.lean ====
section
/-! DEFINITION. The two word widths of the machine (10_state.md R11): bytes, and 16-bit addresses.
Arithmetic on both wraps by the width of the type (R19, 20_memory.md R45). -/

namespace Sys2Proof

/-- Eight bits: A, X, Y, P, a memory cell, an opcode, an immediate (R11, R40). -/
abbrev Byte := BitVec 8

/-- Sixteen bits: PC, SP, an index into `Mem` (R11, R17). -/
abbrev Addr := BitVec 16

end Sys2Proof
end

