-- ==== Sys2Proof/Config.lean ====
section
/-! DEFINITION. What is fixed for the life of a machine: the constants of 00_scope.md R5, the parameters of R6 with the
defaults the spec names, and the one free value, the wall clock (45_frame_scheduler.md R137). -/

namespace Sys2Proof

/-- An RGB triple (10_state.md R30). Components are 8 bits: PRESUMED by the spec (93_implementation_defined.md GK4; log 15);
colours are only copied, so no rule depends on the width. -/
structure Rgb where
  red : BitVec 8
  green : BitVec 8
  blue : BitVec 8
  deriving DecidableEq, Repr

/-- (0, 0, 0), the power-on value of a palette entry (R30, D14). -/
def Rgb.black : Rgb := ⟨0, 0, 0⟩

/-- The initial program and tile image that cold reset rebuilds from (R6 `IMAGE`, 46_host_interface.md R156), its memories in
the canonical form of Machine/Memory.lean. -/
structure Image where
  mem : List Host.Cell
  vram : List Host.Cell
  pal : List Rgb
  deriving DecidableEq, Repr

/-- The implementation parameters of 00_scope.md R6, in its order. -/
structure Config where
  bootPc : Addr
  spInit : Addr
  aInit : Byte
  xInit : Byte
  yInit : Byte
  pInit : Byte
  tilemapBase : Nat
  paletteSize : Nat
  coldResetLoadsVector : Bool
  image : Image
  deriving DecidableEq, Repr

namespace Config

/-- `MEM_SIZE` (R5). -/
abbrev memSize : Nat := 65536
/-- `VRAM_SIZE` (R5). -/
abbrev vramSize : Nat := 32768
/-- `RESET_VECTOR` (R5). -/
abbrev resetVector : Addr := 0xFFFC
/-- `Z_BIT` (R5). -/
abbrev zBit : Nat := 1
/-- `N_BIT` (R5). -/
abbrev nBit : Nat := 7
/-- `CYCLE_BUDGET` (R5). -/
abbrev cycleBudget : Nat := 1364
/-- `FPS_TARGET` (R5), timing only. -/
abbrev fpsTarget : Nat := 60
/-- `MAP_COLS` (R5). -/
abbrev mapCols : Nat := 32
/-- `MAP_ROWS` (R5). -/
abbrev mapRows : Nat := 28
/-- `TILE_W` (R5). -/
abbrev tileW : Nat := 8
/-- `TILE_H` (R5). -/
abbrev tileH : Nat := 8
/-- `SCREEN_W` = `MAP_COLS * TILE_W` (R5). -/
abbrev screenW : Nat := 256
/-- `SCREEN_H` = `MAP_ROWS * TILE_H` (R5). -/
abbrev screenH : Nat := 224
/-- `TILE_BYTES` (R5). -/
abbrev tileBytes : Nat := 16
/-- `PATTERN_BASE` (R5). -/
abbrev patternBase : Nat := 0
/-- Cycle cost of LDA #imm (R5, 70_reset_and_hazards.md R210). -/
abbrev ldaImmCycles : Nat := 2
/-- Cycle cost of LDA abs (R5, R210). -/
abbrev ldaAbsCycles : Nat := 4
/-- Cycle cost of STA abs (R5, R210). -/
abbrev staAbsCycles : Nat := 4
/-- Cycle cost of JMP abs (R5, R210). -/
abbrev jmpAbsCycles : Nat := 3
/-- Cycle cost of NOP (R5, R210). -/
abbrev nopCycles : Nat := 2
/-- Cycle cost of BRK (R5, R210). -/
abbrev brkCycles : Nat := 7
/-- Cycle cost of an undefined opcode (R5, R210). -/
abbrev undefCycles : Nat := 0

/-- The spec's default for every parameter (R6, last column). DESIGN CHOICE of the spec (D2, D3, D4, D12, D15, D17; log 1, 2, 3,
6): the image is the power-on contents, that is an empty loader sequence. -/
def default : Config where
  bootPc := 0x8000
  spInit := 0x01FF
  aInit := 0x00
  xInit := 0x00
  yInit := 0x00
  pInit := 0x00
  tilemapBase := 0x1000
  paletteSize := 4
  coldResetLoadsVector := false
  image := { mem := [], vram := [], pal := List.replicate 4 Rgb.black }

/-- FREE VALUE (log 10): what the `n`-th reading of the wall clock gives, for `last_tick <- now` of 45_frame_scheduler.md R133. The
spec gives the time no value, so nothing here does. -/
opaque wallClock : Nat → Nat

end Config

end Sys2Proof
end

