-- ==== Sys2Proof/Machine/Memory.lean ====
section
/-! DEFINITION. Sparse storage: a list of key and value pairs in one canonical form (keys strictly rising, no entry equal to what
an unlisted key reads as), for `Mem`, `Vram` and `FB` (10_state.md R28, R29, R31; log 16). The reads and writes below do what
they say on EVERY list; the canonical form makes equal contents equal data. -/

namespace Sys2Proof.Machine

/-- The value listed for a key, if any. -/
def lookup {α : Type} : List (Nat × α) → Nat → Option α
  | [], _ => none
  | e :: rest, k => if e.1 = k then some e.2 else lookup rest k

/-- The list without the entries of a key. -/
def eraseKey {α : Type} (k : Nat) : List (Nat × α) → List (Nat × α)
  | [] => []
  | e :: rest => if e.1 = k then eraseKey k rest else e :: eraseKey k rest

/-- The list with an entry put before the first greater key. -/
def insertKey {α : Type} (k : Nat) (v : α) : List (Nat × α) → List (Nat × α)
  | [] => [(k, v)]
  | e :: rest => if k < e.1 then (k, v) :: e :: rest else e :: insertKey k v rest

/-- The list with a key's entry replaced, or added in its place. -/
def putKey {α : Type} (k : Nat) (v : α) (l : List (Nat × α)) : List (Nat × α) :=
  insertKey k v (eraseKey k l)

/-- Keys rise strictly, each above `low`. -/
def risingFrom {α : Type} (low : Nat) : List (Nat × α) → Bool
  | [] => true
  | e :: rest => decide (low ≤ e.1) && risingFrom (e.1 + 1) rest

namespace Memory

/-- What an unlisted byte reads as: 0x00, the power-on value of every cell of `Mem` and `Vram` (10_state.md R28, R29, decision D14;
DESIGN CHOICE of the spec, log 4). -/
def unlisted : Byte := 0x00

/-- One byte of a memory. -/
def readByte (m : List Host.Cell) (k : Nat) : Byte :=
  (lookup m k).getD unlisted

/-- The memory with one byte replaced and nothing else changed (20_memory.md R41). -/
def writeByte (m : List Host.Cell) (k : Nat) (v : Byte) : List Host.Cell :=
  if v = unlisted then eraseKey k m else putKey k v m

/-- The memory with a sequence of bytes stored from an offset upwards, in ascending order (46_host_interface.md R153, R154). -/
def writeBytes (m : List Host.Cell) (k : Nat) : List Byte → List Host.Cell
  | [] => m
  | b :: bytes => writeBytes (writeByte m k b) (k + 1) bytes

/-- The canonical form of a memory of `size` cells: addresses strictly rising and below `size`, no listed byte equal to what an
unlisted address reads as. -/
def wf (size : Nat) (m : List Host.Cell) : Bool :=
  risingFrom 0 m && m.all fun e => decide (e.1 < size) && e.2 != unlisted

end Memory

end Sys2Proof.Machine
end

