-- ==== Sys2Proof/Syntax.lean ====
section
/-! DEFINITION. The instruction set of 30_encoding.md R64: one constructor per row of the opcode table.
The opcode byte has no sub-fields (R61), so an instruction carries only its operand. -/

namespace Sys2Proof

/-- The complete instruction set (30_encoding.md R64). -/
inductive Instr where
  /-- LDA #imm, opcode 0xA9 (R90). -/
  | ldaImm (imm8 : Byte)
  /-- LDA abs, opcode 0xAD (R91). -/
  | ldaAbs (addr : Addr)
  /-- STA abs, opcode 0x8D (R92). -/
  | staAbs (addr : Addr)
  /-- JMP abs, opcode 0x4C (R100). -/
  | jmpAbs (addr : Addr)
  /-- NOP, opcode 0xEA (R101). -/
  | nop
  /-- BRK, opcode 0x00 (R102). -/
  | brk
  /-- An undefined opcode, with the byte that selected it (R68, R103). -/
  | undef (opcode : Byte)
  deriving DecidableEq, Repr

end Sys2Proof
end

