-- ==== Sys2Proof/WellFormed.lean ====
section
/-! DEFINITION. Which instructions are well formed (30_encoding.md R65, R68) and which configurations are admitted (00_scope.md R6,
43_ppu_tile_decode.md R114, decision D20). -/

namespace Sys2Proof

/-- The six opcode values that select a defined instruction (30_encoding.md R64). -/
def definedOpcodes : List Byte := [0xA9#8, 0xAD#8, 0x8D#8, 0x4C#8, 0xEA#8, 0x00#8]

/-- Whether an opcode value selects one of the six defined instructions (R64). -/
def isDefinedOpcode (op : Byte) : Bool := definedOpcodes.contains op

/-- Every operand value is legal (R65), so the one check is that an undefined opcode is none of the six defined ones (R68). -/
def Instr.wellFormed : Instr → Bool
  | .ldaImm _ => true
  | .ldaAbs _ => true
  | .staAbs _ => true
  | .jmpAbs _ => true
  | .nop => true
  | .brk => true
  | .undef op => !isDefinedOpcode op

/-- The tile map lies inside `Vram` (R6, R114). -/
def Config.tilemapFits (c : Config) : Bool :=
  decide (c.tilemapBase + Config.mapCols * Config.mapRows ≤ Config.vramSize)

/-- The palette has at least the four entries a 2-bit colour index can name (R6, R114). -/
def Config.paletteLargeEnough (c : Config) : Bool := decide (4 ≤ c.paletteSize)

/-- The image has the shape R6 gives it: a `Mem`, a `Vram` and a palette of `PALETTE_SIZE` entries, the memories canonical. -/
def Config.imageShaped (c : Config) : Bool :=
  Machine.Memory.wf Config.memSize c.image.mem && Machine.Memory.wf Config.vramSize c.image.vram &&
    decide (c.image.pal.length = c.paletteSize)

/-- The admitted configurations (R6, R114, decision D20): every other one is refused. -/
def Config.admitted (c : Config) : Bool :=
  c.tilemapFits && c.paletteLargeEnough && c.imageShaped

end Sys2Proof
end

