-- ==== Sys2Proof/Decode.lean ====
section
/-! DEFINITION. From bytes to instructions and back (30_encoding.md R60 to R68, R72), and the little-endian helpers the rest of the
machine shares (20_memory.md R43). -/

namespace Sys2Proof

/-- Two bytes as a 16-bit value, the first the low one: `lo | (hi << 8)` (20_memory.md R43, 30_encoding.md R67). -/
def joinBytes (lo hi : Byte) : Addr := hi ++ lo

/-- Bits 7:0 of a 16-bit value (R43). -/
def lowByte (w : Addr) : Byte := w.extractLsb' 0 8

/-- Bits 15:8 of a 16-bit value (R43). -/
def highByte (w : Addr) : Byte := w.extractLsb' 8 8

/-- The three formats of R61. -/
inductive Format where
  /-- Implied: the opcode alone, 1 byte. -/
  | imp
  /-- Immediate: opcode and `imm8`, 2 bytes. -/
  | imm
  /-- Absolute: opcode, `addr_lo`, `addr_hi`, 3 bytes. -/
  | abs
  deriving DecidableEq, Repr

/-- The format an opcode byte selects, by the table of R64; every undefined opcode is a 1-byte instruction (R62, R68). -/
def formatOf (op : Byte) : Format :=
  if op = 0xA9#8 then .imm
  else if op = 0xAD#8 then .abs
  else if op = 0x8D#8 then .abs
  else if op = 0x4C#8 then .abs
  else .imp

/-- How many bytes a format takes (R61). -/
def Format.length : Format → Nat
  | .imp => 1
  | .imm => 2
  | .abs => 3

/-- The instruction an opcode byte and the two bytes after it select: exact match on the opcode, total, never failing (R64, R65,
R66). A byte the format does not use is ignored. -/
def decodeInstr (op b1 b2 : Byte) : Instr :=
  if op = 0xA9#8 then .ldaImm b1
  else if op = 0xAD#8 then .ldaAbs (joinBytes b1 b2)
  else if op = 0x8D#8 then .staAbs (joinBytes b1 b2)
  else if op = 0x4C#8 then .jmpAbs (joinBytes b1 b2)
  else if op = 0xEA#8 then .nop
  else if op = 0x00#8 then .brk
  else .undef op

/-- Why a finite byte sequence holds no instruction. Memory always supplies the next byte (R60), so the machine itself never
meets these. -/
inductive DecodeError where
  /-- The sequence is empty. Safe: no instruction is made up. -/
  | noOpcode
  /-- The sequence ends before the operand bytes this opcode takes. Safe: no operand is made up. -/
  | operandMissing (opcode : Byte)
  deriving DecidableEq, Repr

/-- The first instruction of a byte sequence and the bytes after it (R60 to R68). -/
def decode : List Byte → Except DecodeError (Instr × List Byte)
  | [] => .error .noOpcode
  | op :: rest =>
    match formatOf op, rest with
    | .imp, rest => .ok (decodeInstr op 0 0, rest)
    | .imm, b1 :: rest => .ok (decodeInstr op b1 0, rest)
    | .abs, b1 :: b2 :: rest => .ok (decodeInstr op b1 b2, rest)
    | .imm, [] => .error (.operandMissing op)
    | .abs, [] => .error (.operandMissing op)
    | .abs, [_] => .error (.operandMissing op)

/-- The opcode byte of an instruction (R64). -/
def opcodeOf : Instr → Byte
  | .ldaImm _ => 0xA9
  | .ldaAbs _ => 0xAD
  | .staAbs _ => 0x8D
  | .jmpAbs _ => 0x4C
  | .nop => 0xEA
  | .brk => 0x00
  | .undef op => op

/-- The bytes of an instruction, at ascending addresses (R61, R72). -/
def encode : Instr → List Byte
  | .ldaImm imm8 => [0xA9, imm8]
  | .ldaAbs addr => [0xAD, lowByte addr, highByte addr]
  | .staAbs addr => [0x8D, lowByte addr, highByte addr]
  | .jmpAbs addr => [0x4C, lowByte addr, highByte addr]
  | .nop => [0xEA]
  | .brk => [0x00]
  | .undef op => [op]

/-- The length of an instruction in bytes (R60, R62, R64). -/
def instrLength : Instr → Nat
  | .ldaImm _ => 2
  | .ldaAbs _ => 3
  | .staAbs _ => 3
  | .jmpAbs _ => 3
  | .nop => 1
  | .brk => 1
  | .undef _ => 1

/-- The three bytes, first to last, of an instruction whose bits are `w`, `nbits` of them given and every higher bit 0. -/
def tableWordBytes (nbits w : Nat) : List Byte :=
  let v := w % 2 ^ nbits
  [BitVec.ofNat 8 v, BitVec.ofNat 8 (v / 256), BitVec.ofNat 8 (v / 65536)]

/-- The instruction the decoder reads from an instruction whose bits are `w`, bit 0 the least significant bit of the first byte. -/
def decodeTableWord (nbits w : Nat) : Option Instr :=
  match decode (tableWordBytes nbits w) with
  | .ok (i, _) => some i
  | .error _ => none

end Sys2Proof
end

