-- ==== Sys2Proof/Machine/State.lean ====
section
/-! DEFINITION. The state of the block (10_state.md R10), as plain data, with the model's own fields that say how far an atomic
operation has come and what the host and the timer do next. -/

namespace Sys2Proof.Machine

/-- What can end a step with a fault: nothing. No instruction raises an exception and no situation traps (40_cpu_execute.md R84,
60_exceptions.md R170, 93_implementation_defined.md U13; log 14). Safe: nothing is stopped that the spec lets go on. -/
inductive Fault where
  deriving DecidableEq, Repr

/-- Why a step is refused. -/
inductive Refusal where
  /-- Raised by an arm of `exec` for an instruction without a meaning; no arm does. Safe. -/
  | notModelled (mnemonic : String)
  /-- Raised by `execute` on a halted CPU (R81, decision D8: "a model should refuse it"). Safe: `stepWith` never asks for it. -/
  | cpuHalted
  /-- Raised by a loader, `WarmReset` or `StepFrame` invoked while Running (46_host_interface.md R150, decision D21). Safe: the spec
  gives the invocation no meaning. -/
  | hostOperationWhileRunning
  /-- Raised by a loader whose argument is longer than R151, R153, R154 or R155 allows. Safe: the spec refuses it too. -/
  | argumentTooLong
  /-- Raised by `configure`, when the block is configured, for a configuration that is not admitted (43_ppu_tile_decode.md R114,
  decision D20). Safe: no machine is made of it. -/
  | configurationNotAdmitted
  deriving DecidableEq, Repr

/-- The six registers as the host sees them, numbers 0..255 and 0..65535 (46_host_interface.md R160). -/
structure Snapshot where
  a : Nat
  x : Nat
  y : Nat
  pc : Nat
  sp : Nat
  p : Nat
  deriving DecidableEq, Repr

/-- What the block emits (46_host_interface.md R163). -/
inductive Event where
  /-- The whole framebuffer, at the end of a render (44_ppu_raster.md R125): the painted pixels, by `256 * row + column`. -/
  | frame (fb : List (Nat × Rgb))
  /-- The register snapshot after the render (45_frame_scheduler.md R138). -/
  | notify (registers : Snapshot)
  deriving DecidableEq, Repr

/-- The operations the host may invoke (46_host_interface.md). -/
inductive HostOp where
  /-- R151. -/
  | loadProgram (bytes : List Byte) (origin : Addr)
  /-- R152. -/
  | setResetVector (address : Addr)
  /-- R153. -/
  | loadTiles (bytes : List Byte)
  /-- R154. -/
  | loadTileMap (bytes : List Byte)
  /-- R155. -/
  | setPalette (colors : List Rgb)
  /-- R158, 70_reset_and_hazards.md R192. -/
  | warmReset
  /-- R157, 70_reset_and_hazards.md R193. -/
  | coldReset
  /-- R157, 45_frame_scheduler.md R131. -/
  | start
  /-- R157, 45_frame_scheduler.md R132. -/
  | stop
  /-- R160. -/
  | snapshotRegisters
  /-- R161. -/
  | disassembleWindow (center : Addr) (radius : Nat)
  /-- R162. -/
  | stepFrame
  deriving DecidableEq, Repr

/-- One thing an outside agent does at a tick boundary (R139, R140): the host invokes an operation, or the timer fires. -/
inductive Input where
  | host (op : HostOp)
  | timer
  deriving DecidableEq, Repr

/-- How far the atomic `Tick` (45_frame_scheduler.md R133) or `StepFrame` (46_host_interface.md R162) has come. -/
inductive Phase where
  /-- No frame body is in progress: the only moments at which the host can act (R140). -/
  | between
  /-- Inside a `Tick`. -/
  | inTick
  /-- Inside a `StepFrame`. -/
  | inStepFrame
  deriving DecidableEq, Repr

/-- The state of the block (R10), every element of the table in its order, then the model's own fields. -/
structure State where
  /-- Accumulator (R13). -/
  a : Byte
  /-- Index register, used by no instruction (R14). -/
  x : Byte
  /-- Index register, used by no instruction (R14). -/
  y : Byte
  /-- Stack pointer, used by no instruction (R15). -/
  sp : Addr
  /-- Program counter (R17). -/
  pc : Addr
  /-- Status register: Z is bit 1, N is bit 7, the rest is plain storage (R21). -/
  p : Byte
  /-- The CPU's sticky halt bit (R25). -/
  halted : Bool
  /-- `Mem`, the AddressSpace (R28). -/
  mem : List Host.Cell
  /-- `Vram`, the VideoMemory (R29). -/
  vram : List Host.Cell
  /-- `Pal`, the Palette (R30). -/
  pal : List Rgb
  /-- `FB`: the painted pixels by `256 * row + column`; a pixel not listed is `unpainted` (R31). -/
  fb : List (Nat × Rgb)
  /-- The scheduler's run bit (R26). -/
  running : Bool
  /-- `total_cycles`, unbounded (R33). -/
  totalCycles : Nat
  /-- `last_tick`, a timestamp used for pacing only (R35). -/
  lastTick : Nat
  /-- `frame_cycles`, meaningful inside a frame (R34). -/
  frameCycles : Nat
  /-- MODEL'S OWN (log 7): how far the atomic operation in progress has come. -/
  phase : Phase
  /-- MODEL'S OWN (log 8): what the host and the timer do at the coming tick boundaries, the next first. -/
  inputs : List Input
  /-- MODEL'S OWN (log 9): the events emitted so far, oldest first (00_scope.md R8, `emit`). -/
  output : List Event
  /-- MODEL'S OWN (log 10): how often the wall clock has been read, the counter behind the free value of `lastTick`. -/
  clockReads : Nat
  deriving DecidableEq, Repr

/-- `PowerOn` (70_reset_and_hazards.md R190): the construction of the CPU, PPU and scheduler. `frame_cycles` and `last_tick` hold
nothing the spec names then; they are 0 (DESIGN CHOICE, log 5). Nothing is emitted and no input is pending. -/
def State.powerOn (c : Config) : State where
  a := c.aInit
  x := c.xInit
  y := c.yInit
  sp := c.spInit
  pc := c.bootPc
  p := c.pInit
  halted := false
  mem := []
  vram := []
  pal := List.replicate c.paletteSize Rgb.black
  fb := []
  running := false
  totalCycles := 0
  lastTick := 0
  frameCycles := 0
  phase := .between
  inputs := []
  output := []
  clockReads := 0

/-- The machine right after reset: power-on (R190) under the default parameters of 00_scope.md R6. -/
def State.reset : State := State.powerOn Config.default

end Sys2Proof.Machine
end

