-- ==== Sys2Proof/Machine/Flags.lean ====
section
/-! DEFINITION. The two flags of P and their one update (10_state.md R21, 40_cpu_execute.md R82). -/

namespace Sys2Proof.Machine

/-- The mask of Zero, 0x02 (R5, R21). -/
def zMask : Byte := 1#8 <<< Config.zBit

/-- The mask of Negative, 0x80 (R5, R21). -/
def nMask : Byte := 1#8 <<< Config.nBit

/-- Zero, bit 1 of P (R21). -/
def zeroFlag (p : Byte) : Bool := p.getLsbD Config.zBit

/-- Negative, bit 7 of P (R21). -/
def negativeFlag (p : Byte) : Bool := p.getLsbD Config.nBit

/-- `UpdateFlags(v)` on a value of P (R82): clear both flags, then set Zero if the value is 0 and Negative if its bit 7 is set; every
other bit stays. -/
def updateFlags (p v : Byte) : Byte :=
  let cleared := p &&& ~~~(zMask ||| nMask)
  let withZero := if v = 0x00#8 then cleared ||| zMask else cleared
  if v.getLsbD 7 then withZero ||| nMask else withZero

end Sys2Proof.Machine
end

