-- ==== Sys2Proof/Machine/Ops.lean ====
section
/-! DEFINITION. The named operations over registers and memories (00_scope.md R8) and the halt, which is what this machine has in
place of taking an exception: there is no trap entry and no trap return (60_exceptions.md R170, R174, R175). -/

namespace Sys2Proof.Machine

namespace State

/-- `r[A] <- v` (R8, R13). -/
def setA (s : State) (v : Byte) : State := { s with a := v }

/-- `r[P] <- v` (R8, R21). -/
def setP (s : State) (v : Byte) : State := { s with p := v }

/-- `pc <- target` (R8, R17). -/
def setPc (s : State) (v : Addr) : State := { s with pc := v }

/-- `Mem` replaced as a whole. -/
def setMem (s : State) (m : List Host.Cell) : State := { s with mem := m }

/-- `Vram` replaced as a whole. -/
def setVram (s : State) (m : List Host.Cell) : State := { s with vram := m }

/-- `Pal` replaced as a whole. -/
def setPal (s : State) (pal : List Rgb) : State := { s with pal := pal }

/-- `FB` replaced as a whole. -/
def setFb (s : State) (fb : List (Nat × Rgb)) : State := { s with fb := fb }

/-- `halted <- 1` (R25, 42_cpu_control.md R102). -/
def halt (s : State) : State := { s with halted := true }

/-- `running <- b` (R26). -/
def setRunning (s : State) (b : Bool) : State := { s with running := b }

/-- The inputs that remain. -/
def setInputs (s : State) (inputs : List Input) : State := { s with inputs := inputs }

/-- A cycle cost added to `frame_cycles` and to `total_cycles` (45_frame_scheduler.md R134). -/
def addCycles (s : State) (n : Nat) : State :=
  { s with frameCycles := s.frameCycles + n, totalCycles := s.totalCycles + n }

/-- A frame body begins: `frame_cycles <- 0` (R133, R134, 46_host_interface.md R162). -/
def beginFrame (s : State) (phase : Phase) : State := { s with phase := phase, frameCycles := 0 }

/-- A frame body is over. -/
def closeFrame (s : State) : State := { s with phase := .between }

/-- `emit`, for events in the order given (00_scope.md R8). -/
def emit (s : State) (events : List Event) : State := { s with output := s.output ++ events }

/-- `last_tick <- now` (45_frame_scheduler.md R133): the next reading of the wall clock, a free value (log 10). -/
def stampTick (s : State) : State :=
  { s with lastTick := Config.wallClock s.clockReads, clockReads := s.clockReads + 1 }

/-- `MemRead(addr, 1)` (20_memory.md R44). -/
def read (s : State) (addr : Addr) : Byte := Memory.readByte s.mem addr.toNat

/-- `MemWrite(addr, 1, v)` (R44). -/
def write (s : State) (addr : Addr) (v : Byte) : State :=
  s.setMem (Memory.writeByte s.mem addr.toNat v)

/-- `MemRead(addr, 2)`: the low byte at `addr`, the high byte at the next address modulo 2^16 (R43, R45). -/
def readWord (s : State) (addr : Addr) : Addr := joinBytes (s.read addr) (s.read (addr + 1#16))

/-- `MemWrite(addr, 2, v)`: the low byte at `addr`, then the high byte at the next address modulo 2^16 (R43, R45). -/
def writeWord (s : State) (addr : Addr) (v : Addr) : State :=
  (s.write addr (lowByte v)).write (addr + 1#16) (highByte v)

/-- Bytes stored through `MemWrite` at ascending addresses modulo 2^16 (46_host_interface.md R151). -/
def writeAll (s : State) (addr : Addr) : List Byte → State
  | [] => s
  | b :: bytes => (s.write addr b).writeAll (addr + 1#16) bytes

/-- PC moved past `n` fetched bytes, modulo 2^16 (10_state.md R18, R19). -/
def advancePc (s : State) (n : Nat) : State := s.setPc (s.pc + BitVec.ofNat 16 n)

/-- `UpdateFlags(v)` (40_cpu_execute.md R82). -/
def refreshFlags (s : State) (v : Byte) : State := s.setP (updateFlags s.p v)

/-- The bytes an instruction can take, fetched at PC and the two addresses after it, each modulo 2^16 (20_memory.md R47,
30_encoding.md R60). Reads have no side effect (20_memory.md R51), so reading a byte the format does not use changes nothing
(DEDUCED, log 22). -/
def fetchBytes (s : State) : List Byte := [s.read s.pc, s.read (s.pc + 1#16), s.read (s.pc + 2#16)]

/-- The instruction at PC: the opcode table never fails (40_cpu_execute.md R80, 30_encoding.md R66). -/
def fetchInstr (s : State) : Instr :=
  decodeInstr (s.read s.pc) (s.read (s.pc + 1#16)) (s.read (s.pc + 2#16))

/-- `WarmReset` (70_reset_and_hazards.md R192): PC from the word at the reset vector, nothing else. -/
def warmReset (s : State) : State := s.setPc (s.readWord Config.resetVector)

/-- The bytes of an instruction stored where the next instruction is fetched, and all else a machine needs to run it at its very
next step: the scheduler Running, the CPU not halted, a tick just begun (log 13). -/
def placeAtFetch (s : State) (bytes : List Byte) : State :=
  let loaded := s.writeAll s.pc bytes
  { loaded with halted := false, running := true, phase := .inTick, frameCycles := 0 }

end State

/-- The cycle cost of an instruction, a constant of its row (30_encoding.md R64, 70_reset_and_hazards.md R210). -/
def cycleCost : Instr → Nat
  | .ldaImm _ => Config.ldaImmCycles
  | .ldaAbs _ => Config.ldaAbsCycles
  | .staAbs _ => Config.staAbsCycles
  | .jmpAbs _ => Config.jmpAbsCycles
  | .nop => Config.nopCycles
  | .brk => Config.brkCycles
  | .undef _ => Config.undefCycles

end Sys2Proof.Machine
end

