-- ==== Sys2Proof/Machine/Operands.lean ====
section
/-! DEFINITION. The two ways an operand is located (41_cpu_load_store.md R93): the immediate byte, and the byte of `Mem` at an absolute
address. -/

namespace Sys2Proof.Machine

/-- Immediate: the operand is the byte after the opcode, as it stands (30_encoding.md R63, R93). -/
def immediateOperand (imm8 : Byte) (_s : State) : Byte := imm8

/-- Absolute: the effective address is the 16-bit operand itself (30_encoding.md R67, R93). -/
def absoluteAddress (addr : Addr) (_s : State) : Addr := addr

/-- Absolute: the operand is the byte of `Mem` at the effective address (R93). -/
def absoluteOperand (addr : Addr) (s : State) : Byte := s.read (absoluteAddress addr s)

end Sys2Proof.Machine
end

