-- ==== Sys2Proof/Machine/Control.lean ====
section
/-! DEFINITION. The meanings of the control family and of the undefined opcode (42_cpu_control.md), each from the state in which PC is
still at the opcode byte (40_cpu_execute.md R80; log 22). -/

namespace Sys2Proof.Machine

/-- JMP abs (R100). -/
def execJmpAbs (addr : Addr) (s : State) : Host.Outcome State Fault Refusal :=
  let fetched := s.advancePc 3
  .next (fetched.setPc (absoluteAddress addr fetched))

/-- NOP (R101). -/
def execNop (s : State) : Host.Outcome State Fault Refusal := .next (s.advancePc 1)

/-- BRK (R102, decision D7): the CPU halts with PC after the BRK byte; nothing is pushed and no vector is read. -/
def execBrk (s : State) : Host.Outcome State Fault Refusal := .next (s.advancePc 1).halt

/-- The undefined opcode (R103, decision D6, conflict C1): PC moves to the next byte and nothing else happens. -/
def execUndef (_opcode : Byte) (s : State) : Host.Outcome State Fault Refusal := .next (s.advancePc 1)

end Sys2Proof.Machine
end

