-- ==== Sys2Proof/Machine/LoadStore.lean ====
section
/-! DEFINITION. The meanings of the load and store family (41_cpu_load_store.md). Each runs from the state in which PC is still at the
opcode byte and carries PC past its own bytes (40_cpu_execute.md R80, R83; log 22). -/

namespace Sys2Proof.Machine

/-- What both loads do once their bytes are fetched: A gets the value and the flags are recomputed from it (R90, R91). -/
def loadAccumulator (v : Byte) (s : State) : State := (s.setA v).refreshFlags v

/-- LDA #imm (R90). -/
def execLdaImm (imm8 : Byte) (s : State) : Host.Outcome State Fault Refusal :=
  let fetched := s.advancePc 2
  .next (loadAccumulator (immediateOperand imm8 fetched) fetched)

/-- LDA abs (R91). -/
def execLdaAbs (addr : Addr) (s : State) : Host.Outcome State Fault Refusal :=
  let fetched := s.advancePc 3
  .next (loadAccumulator (absoluteOperand addr fetched) fetched)

/-- STA abs (R92). -/
def execStaAbs (addr : Addr) (s : State) : Host.Outcome State Fault Refusal :=
  let fetched := s.advancePc 3
  .next (fetched.write (absoluteAddress addr fetched) fetched.a)

end Sys2Proof.Machine
end

