-- ==== Sys2Proof/Machine/HostOps.lean ====
section
/-! DEFINITION. What the host may do between ticks (46_host_interface.md) and the resets (70_reset_and_hazards.md). -/

namespace Sys2Proof.Machine

/-- `SnapshotRegisters` (46_host_interface.md R160): the six registers as numbers. -/
def snapshotRegisters (s : State) : Snapshot where
  a := s.a.toNat
  x := s.x.toNat
  y := s.y.toNat
  pc := s.pc.toNat
  sp := s.sp.toNat
  p := s.p.toNat

/-- `DisassembleWindow` (R161, decision D24): raw bytes, ascending, clamped to the address space. -/
def disassembleWindow (s : State) (center : Addr) (radius : Nat) : List Host.Cell :=
  let first := center.toNat - radius
  let last := min 0xFFFF (center.toNat + radius)
  (List.range (last + 1 - first)).map fun i => (first + i, Memory.readByte s.mem (first + i))

/-- `ColdReset` (70_reset_and_hazards.md R193, decision D12): power-on, then the image, then a warm reset if the parameter says so. The
model's own fields for the world outside (inputs still to come, events already emitted, clock readings) stay (log 17). -/
def coldReset (c : Config) (s : State) : State :=
  let rebuilt : State :=
    { State.powerOn c with
      mem := c.image.mem, vram := c.image.vram, pal := c.image.pal
      inputs := s.inputs, output := s.output, clockReads := s.clockReads }
  if c.coldResetLoadsVector then rebuilt.warmReset else rebuilt

/-- A setup operation: refused while Running (46_host_interface.md R150, decision D21). -/
def whileStopped (s : State) (t : Host.Outcome State Fault Refusal) : Host.Outcome State Fault Refusal :=
  if s.running then .refused .hostOperationWhileRunning else t

/-- An argument of `n` items where at most `limit` are taken (R151, R153, R154, R155). -/
def withinLimit (n limit : Nat) (t : State) : Host.Outcome State Fault Refusal :=
  if n ≤ limit then .next t else .refused .argumentTooLong

/-- `Start` (45_frame_scheduler.md R131, decision D22): no effect on a halted CPU. -/
def start (s : State) : State := if s.halted then s else s.setRunning true

/-- One host operation, invoked between ticks (46_host_interface.md R150 to R162). -/
def hostCall (c : Config) (op : HostOp) (s : State) : Host.Outcome State Fault Refusal :=
  match op with
  | .loadProgram bytes origin => whileStopped s (withinLimit bytes.length Config.memSize (s.writeAll origin bytes))
  | .setResetVector address => whileStopped s (.next (s.writeWord Config.resetVector address))
  | .loadTiles bytes =>
    whileStopped s (withinLimit bytes.length Config.vramSize
      (s.setVram (Memory.writeBytes s.vram Config.patternBase bytes)))
  | .loadTileMap bytes =>
    whileStopped s (withinLimit bytes.length (Config.vramSize - c.tilemapBase)
      (s.setVram (Memory.writeBytes s.vram c.tilemapBase bytes)))
  | .setPalette colors =>
    whileStopped s (withinLimit colors.length c.paletteSize
      (s.setPal (colors ++ s.pal.drop colors.length)))
  | .warmReset => whileStopped s (.next s.warmReset)
  | .coldReset => .next (coldReset c s)
  | .start => .next (start s)
  | .stop => .next (s.setRunning false)
  | .snapshotRegisters => .next s
  | .disassembleWindow _ _ => .next s
  | .stepFrame => whileStopped s (.next (if s.halted then s else s.beginFrame .inStepFrame))

/-- What a host operation hands back to the host (R160, R161); every other operation hands back nothing. -/
inductive Reply where
  | nothing
  | registers (snapshot : Snapshot)
  | window (bytes : List Host.Cell)
  deriving DecidableEq, Repr

/-- The reply to a host operation invoked on a state (R160, R161); it is no part of the state (log 23). -/
def hostReply (op : HostOp) (s : State) : Reply :=
  match op with
  | .snapshotRegisters => .registers (snapshotRegisters s)
  | .disassembleWindow center radius => .window (disassembleWindow s center radius)
  | .loadProgram _ _ => .nothing
  | .setResetVector _ => .nothing
  | .loadTiles _ => .nothing
  | .loadTileMap _ => .nothing
  | .setPalette _ => .nothing
  | .warmReset => .nothing
  | .coldReset => .nothing
  | .start => .nothing
  | .stop => .nothing
  | .stepFrame => .nothing

/-- The five loaders, the operations a fixed loader sequence is made of (R156). -/
def isLoader : HostOp → Bool
  | .loadProgram _ _ => true
  | .setResetVector _ => true
  | .loadTiles _ => true
  | .loadTileMap _ => true
  | .setPalette _ => true
  | .warmReset => false
  | .coldReset => false
  | .start => false
  | .stop => false
  | .snapshotRegisters => false
  | .disassembleWindow _ _ => false
  | .stepFrame => false

/-- A loader sequence run on a state, operation by operation; `none` if one is no loader or is refused (R156). -/
def runLoaders (c : Config) : List HostOp → State → Option State
  | [], s => some s
  | op :: ops, s =>
    if isLoader op then
      match hostCall c op s with
      | .next t => runLoaders c ops t
      | .fault f => nomatch f
      | .refused _ => none
    else none

/-- The image a fixed loader sequence makes from the power-on contents (R156, 00_scope.md R6 `IMAGE`). -/
def imageOf (c : Config) (ops : List HostOp) : Option Image :=
  (runLoaders c ops (State.powerOn c)).map fun s => { mem := s.mem, vram := s.vram, pal := s.pal }

end Sys2Proof.Machine
end

