-- ==== Sys2Proof/Machine/Ppu.lean ====
section
/-! DEFINITION. The picture unit: tile decoder, palette lookup and rasterizer (43_ppu_tile_decode.md, 44_ppu_raster.md). -/

namespace Sys2Proof.Machine

/-- `VramRead(off)` (00_scope.md R8). -/
def vramRead (vram : List Host.Cell) (off : Nat) : Byte := Memory.readByte vram off

/-- The colour index one bit position of the two planes gives: plane 1 is the high bit, plane 0 the low bit (43_ppu_tile_decode.md
R111). -/
def colorIndex (plane0 plane1 : Byte) (bit : Nat) : BitVec 2 :=
  ((((plane1 >>> bit) &&& 1) <<< 1) ||| ((plane0 >>> bit) &&& 1)).setWidth 2

/-- `DecodeTileRow` (R111, decision D19): eight colour indices, column 0 (leftmost) from bit 7. -/
def decodeTileRow (plane0 plane1 : Byte) : List (BitVec 2) :=
  (List.range Config.tileW).map fun c => colorIndex plane0 plane1 (7 - c)

/-- The `Vram` offset of tile `t` (R110). -/
def tileBase (t : Byte) : Nat := Config.patternBase + Config.tileBytes * t.toNat

/-- `DecodeTile` (R115): eight rows, each from two consecutive bytes. -/
def decodeTile (vram : List Host.Cell) (t : Byte) : List (List (BitVec 2)) :=
  (List.range Config.tileH).map fun r =>
    decodeTileRow (vramRead vram (tileBase t + 2 * r)) (vramRead vram (tileBase t + 2 * r + 1))

/-- The colour index of one pixel of a decoded tile, row then column. -/
def tilePixel (tile : List (List (BitVec 2))) (r c : Nat) : BitVec 2 := (tile.getD r []).getD c 0

/-- `PaletteLookup` (R113): colour index 0 is transparent, every other index names a palette entry. `none` is `unpainted`. -/
def paletteLookup (pal : List Rgb) (ci : BitVec 2) : Option Rgb :=
  if ci = 0 then none else pal[ci.toNat]?

/-- Where `FB` holds the pixel of row `y` and column `x`: row-major (10_state.md R31, 44_ppu_raster.md R125). -/
def pixelKey (y x : Nat) : Nat := Config.screenW * y + x

/-- `FB[y][x]`; `none` is `unpainted` (R31). -/
def fbPixel (fb : List (Nat × Rgb)) (y x : Nat) : Option Rgb := lookup fb (pixelKey y x)

/-- The tile index of a map cell (44_ppu_raster.md R122). -/
def mapEntry (c : Config) (vram : List Host.Cell) (row col : Nat) : Byte :=
  vramRead vram (c.tilemapBase + row * Config.mapCols + col)

/-- What one row of a tile paints, left to right: a pixel of colour index 0 paints nothing (R120, R123). -/
def tileRowPaints (pal : List Rgb) (tile : List (List (BitVec 2))) (tileX tileY r : Nat) : List (Nat × Rgb) :=
  (List.range Config.tileW).filterMap fun k =>
    (paletteLookup pal (tilePixel tile r k)).map fun rgb => (pixelKey (tileY + r) (tileX + k), rgb)

/-- What one map cell paints, row by row of its tile (R120, R123, decision D19). -/
def cellPaints (c : Config) (vram : List Host.Cell) (pal : List Rgb) (row col : Nat) : List (Nat × Rgb) :=
  let tile := decodeTile vram (mapEntry c vram row col)
  (List.range Config.tileH).flatMap fun r =>
    tileRowPaints pal tile (col * Config.tileW) (row * Config.tileH) r

/-- Everything one frame paints, in the order of R120: cells in row-major order (R122). -/
def framePaints (c : Config) (vram : List Host.Cell) (pal : List Rgb) : List (Nat × Rgb) :=
  (List.range Config.mapRows).flatMap fun row =>
    (List.range Config.mapCols).flatMap fun col => cellPaints c vram pal row col

/-- `FB[..] <- rgb` for each entry in turn. -/
def paintAll (fb : List (Nat × Rgb)) : List (Nat × Rgb) → List (Nat × Rgb)
  | [] => fb
  | (k, rgb) :: rest => paintAll (putKey k rgb fb) rest

/-- The framebuffer `RenderFrame` leaves (R120): cleared first (R121, decision D18), then painted. -/
def renderedFb (c : Config) (vram : List Host.Cell) (pal : List Rgb) : List (Nat × Rgb) :=
  paintAll [] (framePaints c vram pal)

/-- `RenderFrame` (R120, R125): `FB` redrawn, then handed to the host. -/
def renderFrame (c : Config) (s : State) : State :=
  let drawn := s.setFb (renderedFb c s.vram s.pal)
  drawn.emit [.frame drawn.fb]

end Sys2Proof.Machine
end

