-- ==== Sys2Proof/Machine/Scheduler.lean ====
section
/-! DEFINITION. `Execute` (40_cpu_execute.md R80, R81), the FrameScheduler (45_frame_scheduler.md) and the one step of the whole block.

A frame body (`Tick`, `StepFrame`) is atomic for the host (R140). The step runs it one instruction at a time, so that a tick that
never ends (R141) needs no partial function: while `phase` is not `between`, no input is read, and nothing but the frame body
moves (log 7). `tick` and `stepFrame` are the same operations as one transition each, as R133 and R162 write them. -/

namespace Sys2Proof.Machine

/-- `Execute` (R80): one instruction, and the cycles it consumed. There is no such step on a halted CPU (R81, decision D8). -/
def execute (s : State) : Host.Outcome (State × Nat) Fault Refusal :=
  if s.halted then .refused .cpuHalted
  else
    match exec s.fetchInstr s with
    | .next t => .next (t, cycleCost s.fetchInstr)
    | .fault f => .fault f
    | .refused r => .refused r

/-- The test of the budget loop, made before each instruction (R134, decision D10). -/
def budgetLeft (s : State) : Bool := decide (s.frameCycles < Config.cycleBudget) && !s.halted

/-- The body of the budget loop (R133): one instruction, its cost counted twice. -/
def loopBody (s : State) : Host.Outcome State Fault Refusal :=
  match execute s with
  | .next (t, cycles) => .next (t.addCycles cycles)
  | .fault f => .fault f
  | .refused r => .refused r

/-- `emit Notify(SnapshotRegisters())` (R138). -/
def notifyHost (s : State) : State := s.emit [.notify (snapshotRegisters s)]

/-- The end of a frame body: one render, one notification (R135, R138), and for a `Tick` also the time stamp and, on a halted CPU, the
scheduler's stop (R133, R136, decisions D7, D9). `StepFrame` has neither (46_host_interface.md R162; log 18). -/
def finishFrame (c : Config) (s : State) : State :=
  let notified := notifyHost (renderFrame c s)
  match s.phase with
  | .inTick =>
    let stamped := notified.stampTick
    (if s.halted then stamped.setRunning false else stamped).closeFrame
  | .inStepFrame => notified.closeFrame
  | .between => notified.closeFrame

/-- One step inside a frame body: another instruction while the budget test holds, else the end of the frame (R133). -/
def frameStep (c : Config) (s : State) : Host.Outcome State Fault Refusal :=
  if budgetLeft s then loopBody s else .next (finishFrame c s)

/-- The timer fires: a tick begins if the scheduler is Running (R133), else nothing happens (R173: no tick after a `Stop`). -/
def timerFires (s : State) : State := if s.running then s.beginFrame .inTick else s

/-- One step between ticks: the next input, or, with no input left, the timer (R139, R140; log 8). A Stopped machine with no input
left stays as it is (60_exceptions.md R181). -/
def betweenStep (c : Config) (s : State) : Host.Outcome State Fault Refusal :=
  match s.inputs with
  | [] => .next (timerFires s)
  | .timer :: rest => .next (timerFires (s.setInputs rest))
  | .host op :: rest => hostCall c op (s.setInputs rest)

/-- One step of the block under a configuration. -/
def stepWith (c : Config) (s : State) : Host.Outcome State Fault Refusal :=
  match s.phase with
  | .between => betweenStep c s
  | .inTick => frameStep c s
  | .inStepFrame => frameStep c s

/-- The machine a configuration makes: its step, from power-on (70_reset_and_hazards.md R190). -/
def coreWith (c : Config) : Host.Core :=
  { State := State
    Fault := Fault
    Refusal := Refusal
    step := stepWith c
    reset := State.powerOn c }

/-- Configuring the block: a configuration that is not admitted is refused, so that on every machine there is the render step is
total (43_ppu_tile_decode.md R114, decision D20). -/
def configure (c : Config) : Except Refusal Host.Core :=
  if c.admitted then .ok (coreWith c) else .error .configurationNotAdmitted

/-- The budget loop (R133, R134), at most `fuel` instructions of it: the state in which the loop test fails, or `none` if it still
holds after them. A loop that ends for no `fuel` is the hang of R141. -/
def budgetLoop : Nat → State → Option State
  | 0, s => if budgetLeft s then none else some s
  | fuel + 1, s =>
    if budgetLeft s then
      match loopBody s with
      | .next t => budgetLoop fuel t
      | .fault f => nomatch f
      | .refused _ => none
    else some s

/-- A whole frame body as one transition: the budget loop of at most `fuel` instructions, then the end of the frame (R133, R135, R138). -/
def frameBody (c : Config) (fuel : Nat) (phase : Phase) (s : State) : Option State :=
  (budgetLoop fuel (s.beginFrame phase)).map (finishFrame c)

/-- `Tick` as one transition (R133, 00_scope.md R9), for a tick of at most `fuel` instructions. `none` says there is no such transition:
the scheduler is Stopped, or the loop does not end within `fuel` instructions. -/
def tick (c : Config) (fuel : Nat) (s : State) : Option State :=
  if s.running then frameBody c fuel .inTick s else none

/-- `StepFrame` as one transition (46_host_interface.md R162, 00_scope.md R9), for a frame body of at most `fuel` instructions: no effect
on a halted CPU. `none` says there is no such transition: it is not admitted while Running (R150), or the loop does not end within
`fuel` instructions. `hostCall` begins the same frame body, and the step runs it (log 7). -/
def stepFrame (c : Config) (fuel : Nat) (s : State) : Option State :=
  if s.running then none
  else if s.halted then some s
  else frameBody c fuel .inStepFrame s

/-- The wall-clock delay to the next tick, in milliseconds, from the seconds elapsed since `last_tick` (R137, 70_reset_and_hazards.md
R211). Timing only: no step waits for it (log 21). -/
def pacingDelayMs (elapsed : Rat) : Rat := max 1 ((1 / (Config.fpsTarget : Rat) - elapsed) * 1000)

end Sys2Proof.Machine
end

