-- ==== Sys2Proof/Machine/Step.lean ====
section
/-! DEFINITION. The machine's step under the default parameters of 00_scope.md R6, and the placing of one instruction. -/

namespace Sys2Proof.Machine

/-- One step of the block (45_frame_scheduler.md R139) under the default configuration. -/
def step (s : State) : Host.Outcome State Fault Refusal := stepWith Config.default s

/-- The state with an instruction stored where the next step fetches, and the scheduler inside a tick that has just begun (log 13). -/
def State.withFetchWord (s : State) (nbits w : Nat) : State := s.placeAtFetch (tableWordBytes nbits w)

end Sys2Proof.Machine
end

