-- ==== Sys2Proof/Safety.lean ====
section
/-! DEFINITION. The terms claims are stated in: frames, runs, the invariant of the machine, and what counts as a safe run (a run that
no step refuses; nothing faults). -/

namespace Sys2Proof.Machine

/-- `n` steps of the machine a configuration makes. -/
def runSteps (c : Config) (n : Nat) (s : State) : Host.Outcome State Fault Refusal := Host.Core.run (coreWith c) n s

/-- Every byte of `Mem` reads in `t` as in `s`. -/
def SameMem (s t : State) : Prop := ∀ addr : Addr, t.read addr = s.read addr

/-- Every element of State that no instruction changes is the same: all but PC, A, P, `Mem` and `halted` (40_cpu_execute.md R85). -/
structure SameOutsideCpu (s t : State) : Prop where
  x : t.x = s.x
  y : t.y = s.y
  sp : t.sp = s.sp
  vram : t.vram = s.vram
  pal : t.pal = s.pal
  fb : t.fb = s.fb
  running : t.running = s.running
  totalCycles : t.totalCycles = s.totalCycles
  lastTick : t.lastTick = s.lastTick
  frameCycles : t.frameCycles = s.frameCycles
  phase : t.phase = s.phase
  inputs : t.inputs = s.inputs
  output : t.output = s.output
  clockReads : t.clockReads = s.clockReads

/-- A, P, PC and `halted` are the same. -/
structure SameCpu (s t : State) : Prop where
  a : t.a = s.a
  p : t.p = s.p
  pc : t.pc = s.pc
  halted : t.halted = s.halted

/-- The bits of P that are neither Z nor N are the same (10_state.md R21, R22). -/
def SameStorageBits (p q : Byte) : Prop := ∀ i, i ≠ 1 → i ≠ 7 → q.getLsbD i = p.getLsbD i

/-- P after the flag update for a value: Z says the value is 0, N is its bit 7, the other six bits are as before (R22,
40_cpu_execute.md R82). -/
structure FlagsSetFrom (v p q : Byte) : Prop where
  zero : q.getLsbD 1 = decide (v = 0)
  negative : q.getLsbD 7 = v.getLsbD 7
  rest : SameStorageBits p q

/-- A 16-bit address from its low and high byte, as 30_encoding.md R67 writes it. -/
def addressOf (lo hi : Byte) : Addr := lo.setWidth 16 ||| (hi.setWidth 16 <<< 8)

/-- The two operand bytes of the instruction at PC, as an address (R67, modulo 2^16). -/
def operandAddress (s : State) : Addr := addressOf (s.read (s.pc + 1#16)) (s.read (s.pc + 2#16))

/-- A frame body is in progress. -/
def InFrame (s : State) : Prop := s.phase = .inTick ∨ s.phase = .inStepFrame

/-- `k` instructions of the budget loop, each allowed by its test; `none` if the test fails before them (45_frame_scheduler.md R134). -/
def loopAfter : Nat → State → Option State
  | 0, s => some s
  | k + 1, s =>
    if budgetLeft s then
      match loopBody s with
      | .next t => loopAfter k t
      | .fault f => nomatch f
      | .refused _ => none
    else none

/-- The next input is this host operation, and it is taken now: no frame body is in progress. -/
def HostInvokes (op : HostOp) (s : State) : Prop := s.phase = .between ∧ s.inputs.head? = some (.host op)

/-- Events come in pairs, a frame and then a notification (46_host_interface.md R163). -/
def pairedEvents : List Event → Bool
  | [] => true
  | .frame _ :: .notify _ :: rest => pairedEvents rest
  | .frame _ :: .frame _ :: _ => false
  | [.frame _] => false
  | .notify _ :: _ => false

/-- The framebuffer of the last `Frame` event, if there is one (44_ppu_raster.md R125). -/
def lastFrame (events : List Event) : Option (List (Nat × Rgb)) :=
  events.foldl (fun acc e => match e with | .frame fb => some fb | .notify _ => acc) none

/-- The machine's invariant under a configuration. -/
structure Inv (c : Config) (s : State) : Prop where
  /-- `Mem` is in canonical form (log 16). -/
  memCanonical : Memory.wf Config.memSize s.mem = true
  /-- `Vram` is in canonical form (log 16). -/
  vramCanonical : Memory.wf Config.vramSize s.vram = true
  /-- The palette has `PALETTE_SIZE` entries (10_state.md R30). -/
  palSize : s.pal.length = c.paletteSize
  /-- `FB` is in canonical form (log 16). -/
  fbCanonical : risingFrom 0 s.fb = true
  /-- `FB` holds pixels of the 224 rows of 256 only (R31). -/
  fbInside : ∀ e ∈ s.fb, e.1 < Config.screenW * Config.screenH
  /-- A tick is in progress only while Running (R26). -/
  tickRuns : s.phase = .inTick → s.running = true
  /-- A `StepFrame` is in progress only while Stopped (46_host_interface.md R162). -/
  stepFrameStopped : s.phase = .inStepFrame → s.running = false
  /-- Between ticks a halted machine is Stopped (45_frame_scheduler.md R130). -/
  haltStops : s.phase = .between → s.halted = true → s.running = false
  /-- `frame_cycles` is at most 1370 (60_exceptions.md R177). -/
  frameBound : s.frameCycles ≤ 1370
  /-- Only BRK carries `frame_cycles` past 1367 (45_frame_scheduler.md R142). -/
  frameBoundGoing : s.halted = false → s.frameCycles ≤ 1367
  /-- The cycles of the frame are counted in `total_cycles` (R134). -/
  framesCounted : s.frameCycles ≤ s.totalCycles
  /-- Frame, then notification, once per frame (46_host_interface.md R163). -/
  eventsPaired : pairedEvents s.output = true
  /-- `FB` is the last frame emitted, or all unpainted (44_ppu_raster.md R125). -/
  fbShown : s.fb = [] ∨ lastFrame s.output = some s.fb

/-- What no instruction and no host operation but a cold reset can change, and a cold reset sets to the same value: X, Y, SP and the six
storage bits of P hold what power-on gave them (10_state.md R14, R15, R21). -/
structure KeepsPowerOnRegisters (c : Config) (s : State) : Prop where
  x : s.x = c.xInit
  y : s.y = c.yInit
  sp : s.sp = c.spInit
  storageBits : SameStorageBits c.pInit s.p

/-- The `Vram` offsets the rasterizer reads: the 896 bytes of the tile map and the patterns of the 256 tiles (20_memory.md R42). -/
def RasterizerReads (c : Config) (off : Nat) : Prop :=
  off < 4096 ∨ (c.tilemapBase ≤ off ∧ off < c.tilemapBase + 896)

/-- The pixel 44_ppu_raster.md R124 names for row `y` and column `x`: the tile of the map cell, the two planes of the pixel's row, bit
`7 - c` of each, and the palette entry of the index they make. -/
def closedFormPixel (c : Config) (s : State) (y x : Nat) : Option Rgb :=
  let t := (vramRead s.vram (c.tilemapBase + 32 * (y / 8) + x / 8)).toNat
  let p0 := (vramRead s.vram (16 * t + 2 * (y % 8))).toNat
  let p1 := (vramRead s.vram (16 * t + 2 * (y % 8) + 1)).toNat
  let ci := (p1 / 2 ^ (7 - x % 8)) % 2 * 2 + (p0 / 2 ^ (7 - x % 8)) % 2
  if ci = 0 then none else s.pal[ci]?

/-- A safe run of `n` steps: no step of it is refused. -/
def SafeRun (c : Config) (n : Nat) (s : State) : Prop := ∃ t, runSteps c n s = .next t

end Sys2Proof.Machine
end

