-- ==== Sys2Proof/Certificates/Slice0/Obligations.lean ====
section
/-! DEFINITION. The statements about the machine, from the numbered rules of spec/. A statement whose basis rests on a decision of
92_eei_decisions.md or on a rule the spec marks as derived says so in its docstring. -/

open Sys2Proof Sys2Proof.Machine

/-! ### Encoding -/

/-- 30_encoding.md R62 and R66: the opcode byte alone selects the instruction and its length, and every byte value selects exactly
one row: the six defined values theirs, each of the other 250 the one-byte undefined opcode. -/
def Obligations.DecoderFollowsOpcodeTable : Prop :=
  ∀ (b1 b2 : Byte) (rest : List Byte),
    decode (0xA9 :: b1 :: rest) = .ok (.ldaImm b1, rest) ∧
    decode (0xAD :: b1 :: b2 :: rest) = .ok (.ldaAbs (addressOf b1 b2), rest) ∧
    decode (0x8D :: b1 :: b2 :: rest) = .ok (.staAbs (addressOf b1 b2), rest) ∧
    decode (0x4C :: b1 :: b2 :: rest) = .ok (.jmpAbs (addressOf b1 b2), rest) ∧
    decode (0xEA :: rest) = .ok (.nop, rest) ∧
    decode (0x00 :: rest) = .ok (.brk, rest) ∧
    ∀ op : Byte, op ∉ ([0x00#8, 0x4C#8, 0x8D#8, 0xA9#8, 0xAD#8, 0xEA#8] : List Byte) → decode (op :: rest) = .ok (.undef op, rest)

/-- A few words of the table, written out from 30_encoding.md R61 and R64 (the vectors of 95_test_vectors.md section 2.1): numbered as
the opcode table numbers them, they decode to their instructions. -/
def Obligations.TableWordsDecodeToTheirRows : Prop :=
  decodeTableWord 16 0x42A9 = some (.ldaImm 0x42) ∧ decodeTableWord 24 0x1234AD = some (.ldaAbs 0x1234) ∧
  decodeTableWord 24 0x03008D = some (.staAbs 0x0300) ∧ decodeTableWord 24 0x80004C = some (.jmpAbs 0x8000) ∧
  decodeTableWord 8 0xEA = some .nop ∧ decodeTableWord 8 0x00 = some .brk ∧ decodeTableWord 8 0xFF = some (.undef 0xFF)

/-- Decode and encode agree (30_encoding.md section 6, the inverse the spec marks as derived from R61 and R64): the bytes of a
well-formed instruction, whatever follows them, decode to it and leave what follows. -/
def Obligations.DecodeOfEncodeIsTheInstruction : Prop :=
  ∀ (i : Instr) (rest : List Byte), i.wellFormed = true → decode (encode i ++ rest) = .ok (i, rest)

/-- No byte is dropped or misread in decoding: what is decoded is well formed, and encoding it gives back exactly the bytes consumed
(inferred from 30_encoding.md R61, R64, R65). -/
def Obligations.EncodeOfDecodeIsTheBytes : Prop :=
  ∀ (bytes rest : List Byte) (i : Instr), decode bytes = .ok (i, rest) → i.wellFormed = true ∧ encode i ++ rest = bytes

/-! ### The instructions -/

/-- 41_cpu_load_store.md R90. -/
def Obligations.LdaImmediateLoadsLiteral : Prop :=
  ∀ (imm8 : Byte) (s : State), ∃ t,
    exec (.ldaImm imm8) s = .next t ∧
    t.a = imm8 ∧ FlagsSetFrom imm8 s.p t.p ∧ t.pc = s.pc + 2#16 ∧ t.halted = s.halted ∧ SameMem s t ∧ SameOutsideCpu s t ∧
    (s.halted = false → s.read s.pc = 0xA9#8 → s.read (s.pc + 1#16) = imm8 → execute s = .next (t, 2))

/-- 41_cpu_load_store.md R91. -/
def Obligations.LdaAbsoluteLoadsByte : Prop :=
  ∀ (addr : Addr) (s : State), ∃ t,
    exec (.ldaAbs addr) s = .next t ∧
    t.a = s.read addr ∧ FlagsSetFrom (s.read addr) s.p t.p ∧ t.pc = s.pc + 3#16 ∧ t.halted = s.halted ∧ SameMem s t ∧
    SameOutsideCpu s t ∧
    (s.halted = false → s.read s.pc = 0xAD#8 → operandAddress s = addr → execute s = .next (t, 4))

/-- 41_cpu_load_store.md R92: A goes to the effective address, every other byte of `Mem` and every register but PC stays. -/
def Obligations.StaAbsoluteStoresAccumulator : Prop :=
  ∀ (addr : Addr) (s : State), ∃ t,
    exec (.staAbs addr) s = .next t ∧
    (∀ a, absoluteAddress addr (s.advancePc 3) = a →
      a = addr ∧ t.read a = s.a ∧ ∀ b : Addr, b ≠ a → t.read b = s.read b) ∧
    t.pc = s.pc + 3#16 ∧ t.a = s.a ∧ t.p = s.p ∧ t.halted = s.halted ∧ SameOutsideCpu s t ∧
    (s.halted = false → s.read s.pc = 0x8D#8 → operandAddress s = addr → execute s = .next (t, 4))

/-- 42_cpu_control.md R100. -/
def Obligations.JmpAbsoluteSetsPc : Prop :=
  ∀ (addr : Addr) (s : State), ∃ t,
    exec (.jmpAbs addr) s = .next t ∧
    t.pc = addr ∧ t.a = s.a ∧ t.p = s.p ∧ t.halted = s.halted ∧ SameMem s t ∧ SameOutsideCpu s t ∧
    (s.halted = false → s.read s.pc = 0x4C#8 → operandAddress s = addr → execute s = .next (t, 3))

/-- 42_cpu_control.md R101. -/
def Obligations.NopOnlyAdvancesPc : Prop :=
  ∀ s : State, ∃ t,
    exec .nop s = .next t ∧
    t.pc = s.pc + 1#16 ∧ t.a = s.a ∧ t.p = s.p ∧ t.halted = s.halted ∧ SameMem s t ∧ SameOutsideCpu s t ∧
    (s.halted = false → s.read s.pc = 0xEA#8 → execute s = .next (t, 2))

/-- 42_cpu_control.md section 3, which rests on decision D7: BRK sets the sticky halt bit, leaves PC after its one byte, costs 7 cycles,
and pushes nothing, reads no vector and changes no flag. -/
def Obligations.BrkHaltsTheCpu : Prop :=
  ∀ s : State, ∃ t,
    exec .brk s = .next t ∧
    t.halted = true ∧ t.pc = s.pc + 1#16 ∧ t.a = s.a ∧ t.p = s.p ∧ SameMem s t ∧ SameOutsideCpu s t ∧
    (s.halted = false → s.read s.pc = 0x00#8 → execute s = .next (t, 7))

/-- 42_cpu_control.md section 4, which rests on decision D6 and conflict C1: each of the 250 undefined opcodes moves PC one byte on, costs
nothing and changes nothing else. -/
def Obligations.UndefinedOpcodeOnlyAdvancesPc : Prop :=
  ∀ (op : Byte) (s : State), ∃ t,
    exec (.undef op) s = .next t ∧
    t.pc = s.pc + 1#16 ∧ t.a = s.a ∧ t.p = s.p ∧ t.halted = s.halted ∧ SameMem s t ∧ SameOutsideCpu s t ∧
    (s.halted = false → s.read s.pc = op → op ∉ ([0x00#8, 0x4C#8, 0x8D#8, 0xA9#8, 0xAD#8, 0xEA#8] : List Byte) →
      execute s = .next (t, 0))

/-- 40_cpu_execute.md R82: the formula, what it says of each bit, and that the two loads apply it to their new A and nothing else does. -/
def Obligations.UpdateFlagsComputesZeroAndNegative : Prop :=
  (∀ p v : Byte,
    FlagsSetFrom v p (updateFlags p v) ∧
    updateFlags p v = (p &&& 0x7D) ||| (if v = 0 then 0x02 else 0x00) ||| (v &&& 0x80)) ∧
  ∀ (i : Instr) (s t : State), exec i s = .next t →
    match i with
    | .ldaImm _ => t.p = updateFlags s.p t.a
    | .ldaAbs _ => t.p = updateFlags s.p t.a
    | .staAbs _ => t.p = s.p
    | .jmpAbs _ => t.p = s.p
    | .nop => t.p = s.p
    | .brk => t.p = s.p
    | .undef _ => t.p = s.p

/-- 10_state.md R22: the flag-affecting instructions are exactly the two loads, which clear and recompute Z and N from the value loaded;
every other instruction, and a warm reset, leaves all eight bits of P. -/
def Obligations.OnlyLoadsAffectFlags : Prop :=
  (∀ (i : Instr) (s t : State), exec i s = .next t →
    match i with
    | .ldaImm _ => FlagsSetFrom t.a s.p t.p
    | .ldaAbs _ => FlagsSetFrom t.a s.p t.p
    | .staAbs _ => t.p = s.p
    | .jmpAbs _ => t.p = s.p
    | .nop => t.p = s.p
    | .brk => t.p = s.p
    | .undef _ => t.p = s.p) ∧
  ∀ s : State, s.warmReset.p = s.p

/-- 40_cpu_execute.md R84: `Execute` never raises anything; on a CPU that is not halted (R81) it answers the next state and a cycle count
in 0, 2, 3, 4, 7. -/
def Obligations.ExecuteNeverRaises : Prop :=
  ∀ s : State, s.halted = false → ∃ t n, execute s = .next (t, n) ∧ n ∈ [0, 2, 3, 4, 7]

/-- Decision D8 of 92_eei_decisions.md (40_cpu_execute.md section 1): on a halted CPU there is no `Execute`; the model refuses it
(log 11), whatever stands at PC. -/
def Obligations.HaltedCpuRefusesExecute : Prop :=
  ∀ s : State, s.halted = true → execute s = .refused .cpuHalted

/-- The reach of `Execute` (40_cpu_execute.md section 3, which the spec derives from the instruction rules): only the two loads change A,
only BRK changes `halted`, only STA changes a byte and only the one at its operand address, no instruction changes a storage bit
of P or anything outside the CPU. -/
def Obligations.ExecuteReachesOnlyItsOwnState : Prop :=
  ∀ (s t : State) (n : Nat), execute s = .next (t, n) →
    SameOutsideCpu s t ∧ SameStorageBits s.p t.p ∧
    (t.a ≠ s.a ∨ t.p ≠ s.p → s.read s.pc = 0xA9#8 ∨ s.read s.pc = 0xAD#8) ∧
    (t.halted ≠ s.halted → s.read s.pc = 0x00#8) ∧
    ∀ b : Addr, t.read b ≠ s.read b → s.read s.pc = 0x8D#8 ∧ b = operandAddress s

/-- The load and store round trips (41_cpu_load_store.md section 5, which the spec derives from the instruction rules): a literal stored
reads back, and a stored accumulator loads back with its own flags. -/
def Obligations.LoadStoreRoundTrips : Prop :=
  (∀ (v : Byte) (addr : Addr) (s : State), ∃ t u,
    exec (.ldaImm v) s = .next t ∧ exec (.staAbs addr) t = .next u ∧ u.read addr = v ∧ u.a = v) ∧
  ∀ (addr : Addr) (s : State), ∃ t u,
    exec (.staAbs addr) s = .next t ∧ exec (.ldaAbs addr) t = .next u ∧ u.a = s.a ∧ FlagsSetFrom s.a s.p u.p

/-- Fetch coherence (20_memory.md section 7, decision D26): a STA whose operand address lies in the three bytes after it is seen by the very
next fetch. -/
def Obligations.StoreIsSeenByNextFetch : Prop :=
  ∀ (s : State) (k : Nat), s.halted = false → s.read s.pc = 0x8D#8 → k < 3 →
    operandAddress s = s.pc + BitVec.ofNat 16 (3 + k) →
    ∃ t, execute s = .next (t, 4) ∧ t.pc = s.pc + 3#16 ∧ t.fetchBytes[k]? = some s.a

/-! ### Memory -/

/-- Words are little-endian and wrap at the top of memory (20_memory.md sections 2 and 4; the wrap is decision D5): a word written reads
back, its low byte stands at the address and its high byte at the next one modulo 2^16, and no other byte changes. -/
def Obligations.WordsAreLittleEndian : Prop :=
  ∀ (s : State) (addr v : Addr),
    (s.writeWord addr v).readWord addr = v ∧
    ((s.writeWord addr v).read addr).toNat = v.toNat % 256 ∧
    ((s.writeWord addr v).read (addr + 1#16)).toNat = v.toNat / 256 ∧
    (∀ b : Addr, b ≠ addr → b ≠ addr + 1#16 → (s.writeWord addr v).read b = s.read b) ∧
    (s.readWord addr).toNat = (s.read addr).toNat + 256 * (s.read (addr + 1#16)).toNat

/-- Equal memories are equal data (the model's canonical form, log 16): two memories in canonical form that read the same at every
address are the same list. -/
def Obligations.CanonicalMemoriesWithEqualBytesAreEqual : Prop :=
  ∀ (size : Nat) (m n : List Host.Cell), Memory.wf size m = true → Memory.wf size n = true →
    (∀ k, Memory.readByte m k = Memory.readByte n k) → m = n

/-! ### The step and the frame -/

/-- Inside a frame body with budget left, the step is `exec` of the instruction the bytes at PC decode to, and its cycle cost is added to
`frame_cycles` and `total_cycles` (40_cpu_execute.md section 1, 45_frame_scheduler.md section 3; decisions D10, D11; one instruction a step is
the model's choice, log 7). -/
def Obligations.StepRunsDecodedInstruction : Prop :=
  ∀ (s : State) (i : Instr) (rest : List Byte),
    InFrame s → s.frameCycles < 1364 → s.halted = false → decode s.fetchBytes = .ok (i, rest) →
    i.wellFormed = true ∧ ∃ u, exec i s = .next u ∧
      step s = .next { u with frameCycles := s.frameCycles + cycleCost i, totalCycles := s.totalCycles + cycleCost i }

/-- Between ticks (45_frame_scheduler.md section 4; decisions D22, D30; log 8): with no input left a tick begins if and only if the
scheduler is Running, a timer firing does nothing to a Stopped scheduler, and a host input is that host operation. -/
def Obligations.TicksBeginOnlyWhileRunning : Prop :=
  ∀ (c : Config) (s : State), s.phase = .between →
    (s.inputs = [] → s.running = true → stepWith c s = .next { s with phase := .inTick, frameCycles := 0 }) ∧
    (s.inputs = [] → s.running = false → stepWith c s = .next s) ∧
    (∀ rest, s.inputs = .timer :: rest → s.running = true →
      stepWith c s = .next { s with phase := .inTick, frameCycles := 0, inputs := rest }) ∧
    (∀ rest, s.inputs = .timer :: rest → s.running = false → stepWith c s = .next { s with inputs := rest }) ∧
    (∀ op rest, s.inputs = .host op :: rest → stepWith c s = hostCall c op { s with inputs := rest })

/-- The end of a frame body (45_frame_scheduler.md section 3 with decisions D7, D9, D31; 46_host_interface.md section 5 with decision D23):
when the budget test fails there is one render and one notification; a tick also stamps `last_tick` with the next reading of the wall
clock, a free value that may be any number (log 10), and on a halted CPU stops the scheduler; registers, memories and counters
stay. -/
def Obligations.FrameEndsWithOneRenderAndOneNotification : Prop :=
  ∀ (c : Config) (s : State), InFrame s → (1364 ≤ s.frameCycles ∨ s.halted = true) → ∃ t,
    stepWith c s = .next t ∧
    t.phase = .between ∧ t.fb = renderedFb c s.vram s.pal ∧
    t.output = s.output ++ [.frame t.fb, .notify
      { a := s.a.toNat, x := s.x.toNat, y := s.y.toNat, pc := s.pc.toNat, sp := s.sp.toNat, p := s.p.toNat }] ∧
    (s.phase = .inTick → t.running = (s.running && !s.halted) ∧ t.lastTick = Config.wallClock s.clockReads) ∧
    (s.phase = .inStepFrame → t.running = s.running ∧ t.lastTick = s.lastTick) ∧
    SameCpu s t ∧ SameMem s t ∧ t.x = s.x ∧ t.y = s.y ∧ t.sp = s.sp ∧ t.vram = s.vram ∧ t.pal = s.pal ∧
    t.totalCycles = s.totalCycles ∧ t.frameCycles = s.frameCycles ∧ t.inputs = s.inputs

/-- 46_host_interface.md R163: the block emits nothing but, at the end of a frame body, one `Frame` and then one `Notify`; so exactly one of
each per tick, in that order. -/
def Obligations.EachTickEmitsOneFrameThenOneNotify : Prop :=
  (∀ (c : Config) (s t : State), stepWith c s = .next t →
    (InFrame s ∧ t.phase = .between ∧ t.output = s.output ++ [.frame t.fb, .notify (snapshotRegisters t)]) ∨
    (¬(InFrame s ∧ t.phase = .between) ∧ t.output = s.output)) ∧
  ∀ (c : Config) (fuel : Nat) (s t : State), tick c fuel s = some t →
    t.output = s.output ++ [.frame t.fb, .notify (snapshotRegisters t)]

/-- Atomicity of a tick for the host (45_frame_scheduler.md section 4, decision D30): while a frame body is in progress no input is taken
and the step neither reads nor changes what the host would change: `Vram` and `Pal` stay, and with other inputs pending the step
is the same. -/
def Obligations.HostActsOnlyBetweenTicks : Prop :=
  ∀ (c : Config) (s t : State), InFrame s → stepWith c s = .next t →
    t.inputs = s.inputs ∧ t.vram = s.vram ∧ t.pal = s.pal ∧
    ∀ inputs : List Input, stepWith c { s with inputs := inputs } = .next { t with inputs := inputs }

/-- The steps of the model refine the atomic `Tick` of 45_frame_scheduler.md section 3 (the granularity of the step is the model's choice,
log 7; that with no input left the timer fires at once is another, log 8): a tick that ends is reached by steps that stay inside the tick until its last, and a tick that never ends is a run that never
leaves it. -/
def Obligations.StepsRefineTheAtomicTick : Prop :=
  ∀ (c : Config) (s : State), s.phase = .between → s.inputs = [] → s.running = true →
    (∀ (fuel : Nat) (t : State), tick c fuel s = some t →
      ∃ n, n ≤ fuel + 2 ∧ runSteps c n s = .next t ∧ t.phase = .between ∧
        ∀ m, 0 < m → m < n → ∃ u, runSteps c m s = .next u ∧ u.phase = .inTick) ∧
    ((∀ fuel, tick c fuel s = none) → ∀ n, 0 < n → ∃ u, runSteps c n s = .next u ∧ u.phase = .inTick)

/-- The same for a tick that the list of inputs begins with a firing of the timer, whatever inputs come after it (log 7, 8). -/
def Obligations.TimerTicksRefineTheAtomicTick : Prop :=
  ∀ (c : Config) (s : State) (rest : List Input), s.phase = .between → s.inputs = .timer :: rest → s.running = true →
    (∀ (fuel : Nat) (t : State), tick c fuel { s with inputs := rest } = some t →
      ∃ n, n ≤ fuel + 2 ∧ runSteps c n s = .next t ∧ t.phase = .between ∧ t.inputs = rest ∧
        ∀ m, 0 < m → m < n → ∃ u, runSteps c m s = .next u ∧ u.phase = .inTick ∧ u.inputs = rest) ∧
    ((∀ fuel, tick c fuel { s with inputs := rest } = none) →
      ∀ n, 0 < n → ∃ u, runSteps c n s = .next u ∧ u.phase = .inTick ∧ u.inputs = rest)

/-- The steps of the model refine the atomic `StepFrame` (46_host_interface.md section 5, decision D23; the granularity is the model's
choice, log 7): on a halted CPU it is one step that does nothing; one that ends is reached by steps that stay inside it until the last,
all the while Stopped; one that never ends is a run that never leaves it. -/
def Obligations.StepsRefineTheAtomicStepFrame : Prop :=
  ∀ (c : Config) (s : State) (rest : List Input),
    s.phase = .between → s.inputs = .host .stepFrame :: rest → s.running = false →
    (s.halted = true →
      stepFrame c 0 { s with inputs := rest } = some { s with inputs := rest } ∧ stepWith c s = .next { s with inputs := rest }) ∧
    (∀ (fuel : Nat) (t : State), stepFrame c fuel { s with inputs := rest } = some t →
      ∃ n, n ≤ fuel + 2 ∧ runSteps c n s = .next t ∧ t.phase = .between ∧ t.running = false ∧ t.inputs = rest ∧
        ∀ m, 0 < m → m < n → ∃ u, runSteps c m s = .next u ∧ u.phase = .inStepFrame ∧ u.running = false ∧ u.inputs = rest) ∧
    ((∀ fuel, stepFrame c fuel { s with inputs := rest } = none) →
      ∀ n, 0 < n → ∃ u, runSteps c n s = .next u ∧ u.phase = .inStepFrame ∧ u.running = false ∧ u.inputs = rest)

/-- The hang of a tick (45_frame_scheduler.md section 4, which the spec derives from the budget loop and the undefined opcode): the budget
loop never ends exactly when, at some point of it with budget left, no byte of `Mem` holds one of the six defined opcodes. -/
def Obligations.TickHangsExactlyOnUndefinedMemory : Prop :=
  ∀ s : State,
    (∀ fuel, budgetLoop fuel s = none) ↔
      ∃ k u, loopAfter k s = some u ∧ u.frameCycles < 1364 ∧ u.halted = false ∧
        ∀ b : Addr, u.read b ∉ ([0x00#8, 0x4C#8, 0x8D#8, 0xA9#8, 0xAD#8, 0xEA#8] : List Byte)

/-- The bounds of a tick that ends (45_frame_scheduler.md section 4, derived there): `total_cycles` grows by the cycles of the frame; a tick
that ends on the budget alone has 1364 to 1367 of them, one that halts 7 to 1370. -/
def Obligations.FinishedTickCyclesAreBounded : Prop :=
  ∀ (c : Config) (fuel : Nat) (s t : State), s.halted = false → tick c fuel s = some t →
    t.totalCycles = s.totalCycles + t.frameCycles ∧
    (t.halted = false → 1364 ≤ t.frameCycles ∧ t.frameCycles ≤ 1367) ∧
    (t.halted = true → 7 ≤ t.frameCycles ∧ t.frameCycles ≤ 1370)

/-- Safe runs: with no host input pending no step is ever refused, from any state (40_cpu_execute.md section 3 and 60_exceptions.md section 1:
nothing traps; log 7, 8). -/
def Obligations.RunsWithoutHostInputsAreSafe : Prop :=
  ∀ (c : Config) (n : Nat) (s : State), s.inputs = [] → SafeRun c n s

/-! ### Control state -/

/-- `running` (10_state.md section 5): it is 0 at power-on; it becomes 1 only by `Start` on a CPU that is not halted, and becomes 0 only by
`Stop`, by cold reset, or at the end of a tick on a halted CPU; each of these does so; when the timer fires a tick begins exactly
when it is 1. That the timer fires whenever no input is left is the model's choice (log 8). -/
def Obligations.RunningChangesOnlyByItsFourCauses : Prop :=
  ∀ (c : Config),
    (State.powerOn c).running = false ∧
    ∀ s t : State, stepWith c s = .next t →
      (s.running = false → t.running = true → HostInvokes .start s ∧ s.halted = false) ∧
      (s.running = true → t.running = false →
        HostInvokes .stop s ∨ HostInvokes .coldReset s ∨ (s.phase = .inTick ∧ t.phase = .between ∧ s.halted = true)) ∧
      (HostInvokes .start s → s.halted = false → t.running = true) ∧
      (HostInvokes .stop s ∨ HostInvokes .coldReset s → t.running = false) ∧
      (s.phase = .inTick → s.halted = true → t.phase = .between ∧ t.running = false) ∧
      (s.phase = .between → (s.inputs = [] ∨ s.inputs.head? = some .timer) → (t.phase = .inTick ↔ s.running = true))

/-- `halted` (10_state.md section 5, decision D7): it becomes 1 only by executing a 0x00 byte inside a frame body, and becomes 0 only by cold
reset, which always clears it. -/
def Obligations.HaltedChangesOnlyByBrkAndColdReset : Prop :=
  ∀ (c : Config),
    (State.powerOn c).halted = false ∧
    ∀ s t : State, stepWith c s = .next t →
      (s.halted = false → t.halted = true → InFrame s ∧ s.frameCycles < 1364 ∧ s.read s.pc = 0x00#8) ∧
      (s.halted = true → t.halted = false → HostInvokes .coldReset s) ∧
      (HostInvokes .coldReset s → t.halted = false)

/-- X, Y, SP and the six storage bits of P (10_state.md sections 2 and 4; their initial values are the parameters of decisions D3 and D4, whatever
these are): power-on sets them to the parameters, and no step of any kind ever gives them another value. -/
def Obligations.UnusedRegistersKeepTheirPowerOnValues : Prop :=
  ∀ c : Config, KeepsPowerOnRegisters c (State.powerOn c) ∧
    ∀ s t : State, KeepsPowerOnRegisters c s → stepWith c s = .next t → KeepsPowerOnRegisters c t

/-! ### The invariant -/

/-- The machine's invariant holds after power-on under every configuration, and so at reset. Two of its parts are the model's choice: the
canonical form of the memories (log 16), and that `frame_cycles` is 0 at power-on (log 5), on which its bounds rest there. -/
def Obligations.PowerOnSatisfiesTheInvariant : Prop :=
  (∀ c : Config, Inv c (State.powerOn c)) ∧ Inv Config.default State.reset

/-- Every step keeps the invariant: the memories and the framebuffer stay canonical and inside their spaces, the palette keeps its size, the
scheduler's states stay those of 45_frame_scheduler.md section 1, the frame's cycles stay bounded, and events come in pairs whose last
frame is what `FB` shows. The canonical form (log 16), `phase` (log 7) and the 0 that cold reset gives `frame_cycles` (log 5) are the
model's. -/
def Obligations.EveryStepKeepsTheInvariant : Prop :=
  (∀ (c : Config) (s t : State), c.admitted = true → Inv c s → stepWith c s = .next t → Inv c t) ∧
  ∀ s t : State, Inv Config.default s → step s = .next t → Inv Config.default t

/-! ### The picture unit -/

/-- 43_ppu_tile_decode.md R115: the pixel in row `r` and column `c` of tile `t` takes bit `7 - c` of the two bytes at
`16 t + 2 r`, the second one as the high bit; a decoded tile is eight rows of eight. -/
def Obligations.TileDecodesFromItsSixteenBytes : Prop :=
  ∀ (vram : List Host.Cell) (t : Byte),
    (decodeTile vram t).length = 8 ∧ (∀ row ∈ decodeTile vram t, row.length = 8) ∧
    ∀ r c, r < 8 → c < 8 →
      (tilePixel (decodeTile vram t) r c).toNat =
        2 * ((vramRead vram (16 * t.toNat + 2 * r + 1)).getLsbD (7 - c)).toNat +
          ((vramRead vram (16 * t.toNat + 2 * r)).getLsbD (7 - c)).toNat

/-- 43_ppu_tile_decode.md R113: colour index 0 is never painted, every other index is its palette entry, and no palette entry but 1, 2 and 3
has any influence on what is drawn. -/
def Obligations.PaletteEntryZeroIsTransparent : Prop :=
  (∀ pal : List Rgb, paletteLookup pal 0 = none) ∧
  (∀ (pal : List Rgb) (ci : BitVec 2), ci ≠ 0 → paletteLookup pal ci = pal[ci.toNat]?) ∧
  ∀ (c : Config) (vram : List Host.Cell) (pal pal' : List Rgb),
    pal[1]? = pal'[1]? → pal[2]? = pal'[2]? → pal[3]? = pal'[3]? → renderedFb c vram pal = renderedFb c vram pal'

/-- The closed form of a frame (44_ppu_raster.md section 1, derived there; the geometry is decision D19 and the clearing decision D18): after
a render every pixel of the 224 rows of 256 is what its map cell, its tile's two planes and the palette say, and nothing is left of
the frame before. -/
def Obligations.RenderedFrameHasTheClosedForm : Prop :=
  ∀ (c : Config) (s : State) (y x : Nat), y < 224 → x < 256 →
    fbPixel (renderFrame c s).fb y x = closedFormPixel c s y x

/-- 44_ppu_raster.md R126: a render reads the tile map, the patterns and palette entries 1 to 3 only, writes `FB` only (and hands it to the
host), and costs no cycles. -/
def Obligations.RenderWritesOnlyTheFramebuffer : Prop :=
  ∀ (c : Config) (s : State),
    SameCpu s (renderFrame c s) ∧
    (renderFrame c s).mem = s.mem ∧ (renderFrame c s).x = s.x ∧ (renderFrame c s).y = s.y ∧ (renderFrame c s).sp = s.sp ∧
    (renderFrame c s).vram = s.vram ∧ (renderFrame c s).pal = s.pal ∧ (renderFrame c s).running = s.running ∧
    (renderFrame c s).totalCycles = s.totalCycles ∧ (renderFrame c s).frameCycles = s.frameCycles ∧
    (renderFrame c s).lastTick = s.lastTick ∧ (renderFrame c s).phase = s.phase ∧ (renderFrame c s).inputs = s.inputs ∧
    (renderFrame c s).clockReads = s.clockReads ∧
    (renderFrame c s).output = s.output ++ [.frame (renderFrame c s).fb] ∧
    ∀ u : State, (∀ off, RasterizerReads c off → vramRead u.vram off = vramRead s.vram off) →
      u.pal[1]? = s.pal[1]? → u.pal[2]? = s.pal[2]? → u.pal[3]? = s.pal[3]? → (renderFrame c u).fb = (renderFrame c s).fb

/-- No index is out of range during a render (43_ppu_tile_decode.md section 3, decision D20): a configuration with fewer than 4 palette entries
or a tile map past the end of `Vram` is refused, and under an admitted one every map and pattern offset is below 32768 and every
colour index names an entry of a palette of the configured size. -/
def Obligations.AdmittedConfigurationsRenderInRange : Prop :=
  (∀ c : Config, c.paletteSize < 4 ∨ 31872 < c.tilemapBase → configure c = .error .configurationNotAdmitted) ∧
  ∀ c : Config, c.admitted = true →
    configure c = .ok (coreWith c) ∧
    (∀ row col, row < 28 → col < 32 → c.tilemapBase + row * 32 + col < 32768) ∧
    (∀ (t : Byte) (r : Nat), r < 8 → tileBase t + 2 * r + 1 < 32768) ∧
    ∀ (s : State) (ci : BitVec 2), Inv c s → ci.toNat < s.pal.length

/-- Every frame of an uninterrupted run is the same (44_ppu_raster.md section 2, derived there; 10_state.md section 6): with no host input
pending, whatever the CPU executes, every frame emitted is the one `Vram` and `Pal` already determine (what a step is, and that the
timer fires with no input left, are the model's choices, log 7, 8). -/
def Obligations.EveryFrameOfAnUninterruptedRunIsIdentical : Prop :=
  ∀ (c : Config) (n : Nat) (s t : State), s.inputs = [] → runSteps c n s = .next t →
    t.vram = s.vram ∧ t.pal = s.pal ∧
    ∃ new, t.output = s.output ++ new ∧ ∀ fb, .frame fb ∈ new → fb = renderedFb c s.vram s.pal

/-- The step behind it, for ticks begun by a firing of the timer too (44_ppu_raster.md section 2; the inputs are the model's, log 8): while
only the timer is pending a step keeps that so, keeps `Vram` and `Pal`, and emits nothing or the one frame they determine and a
notification. -/
def Obligations.TimerOnlyStepsKeepThePicture : Prop :=
  ∀ (c : Config) (s t : State), (∀ i ∈ s.inputs, i = .timer) → stepWith c s = .next t →
    (∀ i ∈ t.inputs, i = .timer) ∧ t.vram = s.vram ∧ t.pal = s.pal ∧
    (t.output = s.output ∨
      ∃ registers, t.output = s.output ++ [.frame (renderedFb c s.vram s.pal), .notify registers])

/-! ### The host's operations and the resets -/

/-- `LoadProgram` (46_host_interface.md section 2; decisions D5, D21): while Stopped the bytes stand from the origin upwards modulo 2^16, every
other byte and every register stays; a sequence longer than the address space is refused. -/
def Obligations.LoadProgramStoresItsBytes : Prop :=
  ∀ (c : Config) (s : State) (bytes : List Byte) (origin : Addr), s.running = false →
    (bytes.length ≤ 65536 → ∃ t,
      hostCall c (.loadProgram bytes origin) s = .next t ∧
      (∀ i b, bytes[i]? = some b → t.read (origin + BitVec.ofNat 16 i) = b) ∧
      (∀ a : Addr, bytes.length ≤ (a - origin).toNat → t.read a = s.read a) ∧ SameCpu s t ∧ SameOutsideCpu s t) ∧
    (65536 < bytes.length → hostCall c (.loadProgram bytes origin) s = .refused .argumentTooLong)

/-- 46_host_interface.md R152: the vector word is stored little-endian at 0xFFFC and nothing else changes; PC becomes it at the next warm reset. -/
def Obligations.SetResetVectorStoresTheVector : Prop :=
  ∀ (c : Config) (s : State) (address : Addr), s.running = false → ∃ t,
    hostCall c (.setResetVector address) s = .next t ∧
    (t.read 0xFFFC).toNat = address.toNat % 256 ∧ (t.read 0xFFFD).toNat = address.toNat / 256 ∧
    (∀ b : Addr, b ≠ 0xFFFC → b ≠ 0xFFFD → t.read b = s.read b) ∧ SameCpu s t ∧ SameOutsideCpu s t ∧
    hostCall c .warmReset t = .next { t with pc := address }

/-- `LoadTiles` and `LoadTileMap` (46_host_interface.md section 2; decisions D15, D16, D21): while Stopped the bytes stand in `Vram` from offset 0,
or from `TILEMAP_BASE`, every other byte of `Vram` and all the rest of the state stays; a sequence past the end of `Vram` is refused. -/
def Obligations.TileLoadersStoreTheirBytes : Prop :=
  ∀ (c : Config) (s : State) (bytes : List Byte), s.running = false →
    (bytes.length ≤ 32768 → ∃ m,
      hostCall c (.loadTiles bytes) s = .next { s with vram := m } ∧
      (∀ i b, bytes[i]? = some b → vramRead m i = b) ∧
      ∀ off, bytes.length ≤ off → vramRead m off = vramRead s.vram off) ∧
    (32768 < bytes.length → hostCall c (.loadTiles bytes) s = .refused .argumentTooLong) ∧
    (c.tilemapBase + bytes.length ≤ 32768 → ∃ m,
      hostCall c (.loadTileMap bytes) s = .next { s with vram := m } ∧
      (∀ i b, bytes[i]? = some b → vramRead m (c.tilemapBase + i) = b) ∧
      ∀ off, off < c.tilemapBase ∨ c.tilemapBase + bytes.length ≤ off → vramRead m off = vramRead s.vram off) ∧
    (c.admitted = true → 32768 < c.tilemapBase + bytes.length →
      hostCall c (.loadTileMap bytes) s = .refused .argumentTooLong)

/-- `SetPalette` (46_host_interface.md section 2; decisions D16, D17, D21): while Stopped the colours become the entries from 0 on, every other
entry and all the rest of the state stays; more colours than entries are refused. -/
def Obligations.SetPaletteStoresFromEntryZero : Prop :=
  ∀ (c : Config) (s : State) (colors : List Rgb), s.running = false →
    (colors.length ≤ c.paletteSize → ∃ pal,
      hostCall c (.setPalette colors) s = .next { s with pal := pal } ∧
      (∀ (i : Nat) (rgb : Rgb), colors[i]? = some rgb → pal[i]? = some rgb) ∧
      ∀ i : Nat, colors.length ≤ i → pal[i]? = s.pal[i]?) ∧
    (c.paletteSize < colors.length → hostCall c (.setPalette colors) s = .refused .argumentTooLong)

/-- Admission (46_host_interface.md section 1, decision D21): while Running the five loaders, `WarmReset` and `StepFrame` are refused; `Start`,
`Stop`, `ColdReset` and the two read-backs are admitted in every state. -/
def Obligations.SetupOperationsAreRefusedWhileRunning : Prop :=
  ∀ (c : Config) (op : HostOp) (s : State),
    match op with
    | .start => ∃ t, hostCall c op s = .next t
    | .stop => ∃ t, hostCall c op s = .next t
    | .coldReset => ∃ t, hostCall c op s = .next t
    | .snapshotRegisters => hostCall c op s = .next s
    | .disassembleWindow _ _ => hostCall c op s = .next s
    | .loadProgram _ _ => s.running = true → hostCall c op s = .refused .hostOperationWhileRunning
    | .setResetVector _ => s.running = true → hostCall c op s = .refused .hostOperationWhileRunning
    | .loadTiles _ => s.running = true → hostCall c op s = .refused .hostOperationWhileRunning
    | .loadTileMap _ => s.running = true → hostCall c op s = .refused .hostOperationWhileRunning
    | .setPalette _ => s.running = true → hostCall c op s = .refused .hostOperationWhileRunning
    | .warmReset => s.running = true → hostCall c op s = .refused .hostOperationWhileRunning
    | .stepFrame => s.running = true → hostCall c op s = .refused .hostOperationWhileRunning

/-- `Start`, `Stop` and the beginning of `StepFrame` (45_frame_scheduler.md section 2, decision D22; 46_host_interface.md section 5, decision D23):
what each changes, and that on a halted CPU `Start` and `StepFrame` change nothing. -/
def Obligations.StartStopAndStepFrame : Prop :=
  ∀ (c : Config) (s : State),
    (s.halted = false → hostCall c .start s = .next { s with running := true }) ∧
    (s.halted = true → hostCall c .start s = .next s) ∧
    hostCall c .stop s = .next { s with running := false } ∧
    (s.running = false → s.halted = true → hostCall c .stepFrame s = .next s) ∧
    (s.running = false → s.halted = false →
      hostCall c .stepFrame s = .next { s with phase := .inStepFrame, frameCycles := 0 })

/-- Warm reset (70_reset_and_hazards.md section 2, decision D13): PC is the little-endian word at 0xFFFC and nothing else changes, `halted`
included. -/
def Obligations.WarmResetLoadsPcFromTheVector : Prop :=
  ∀ (c : Config) (s : State), s.running = false → ∃ pc : Addr,
    hostCall c .warmReset s = .next { s with pc := pc } ∧
    pc.toNat = (s.read 0xFFFC).toNat + 256 * (s.read 0xFFFD).toNat

/-- Power-on (70_reset_and_hazards.md section 1; decisions D2, D3, D4, D11, D14), under every configuration: the parameters in the registers,
every byte of `Mem` and `Vram` zero, every palette entry black, every pixel unpainted, Stopped, not halted, counters 0. -/
def Obligations.PowerOnSetsEveryElement : Prop :=
  ∀ c : Config,
    (State.powerOn c).a = c.aInit ∧ (State.powerOn c).x = c.xInit ∧ (State.powerOn c).y = c.yInit ∧
    (State.powerOn c).p = c.pInit ∧ (State.powerOn c).pc = c.bootPc ∧ (State.powerOn c).sp = c.spInit ∧
    (State.powerOn c).halted = false ∧ (State.powerOn c).running = false ∧ (State.powerOn c).totalCycles = 0 ∧
    (∀ b : Addr, (State.powerOn c).read b = 0) ∧ (∀ off, vramRead (State.powerOn c).vram off = 0) ∧
    (State.powerOn c).pal.length = c.paletteSize ∧ (∀ rgb ∈ (State.powerOn c).pal, rgb = ⟨0, 0, 0⟩) ∧
    ∀ y x, fbPixel (State.powerOn c).fb y x = none

/-- Cold reset (70_reset_and_hazards.md section 3, decision D12; log 17): the power-on values, the image's memories and palette, and PC from the
image's vector only if the parameter says so; nothing is rendered or emitted. -/
def Obligations.ColdResetRebuildsFromTheImage : Prop :=
  ∀ (c : Config) (s : State), ∃ t,
    hostCall c .coldReset s = .next t ∧
    t.a = c.aInit ∧ t.x = c.xInit ∧ t.y = c.yInit ∧ t.p = c.pInit ∧ t.sp = c.spInit ∧ t.halted = false ∧ t.running = false ∧
    t.totalCycles = 0 ∧ t.mem = c.image.mem ∧ t.vram = c.image.vram ∧ t.pal = c.image.pal ∧ t.output = s.output ∧
    (∀ y x, fbPixel t.fb y x = none) ∧
    (c.coldResetLoadsVector = false → t.pc = c.bootPc) ∧
    (c.coldResetLoadsVector = true →
      t.pc.toNat = (Memory.readByte c.image.mem 0xFFFC).toNat + 256 * (Memory.readByte c.image.mem 0xFFFD).toNat)

/-- An image made by a loader sequence (46_host_interface.md section 2, decision D12) has the shape a configuration is asked for, so that a
configuration with it is admitted. That admission asks for the shape of the image (log 19) and that the shape includes the canonical
form (log 16) are the model's choices. -/
def Obligations.LoaderSequencesMakeAdmittedImages : Prop :=
  ∀ (c : Config) (ops : List HostOp) (image : Image), c.tilemapFits = true → c.paletteLargeEnough = true →
    imageOf c ops = some image → Config.admitted { c with image := image } = true

/-- The read-backs (46_host_interface.md section 4; decisions D1, D24): the snapshot is the six registers as numbers; the window holds exactly
the bytes within the radius, clamped to the address space, each address once and in ascending order. -/
def Obligations.ReadBacksShowRegistersAndMemory : Prop :=
  ∀ (s : State),
    hostReply .snapshotRegisters s = .registers
      { a := s.a.toNat, x := s.x.toNat, y := s.y.toNat, pc := s.pc.toNat, sp := s.sp.toNat, p := s.p.toNat } ∧
    ∀ (center : Addr) (radius : Nat), ∃ bytes : List Host.Cell,
      hostReply (.disassembleWindow center radius) s = .window bytes ∧
      (∀ (a : Nat) (b : Byte), (a, b) ∈ bytes ↔
        center.toNat ≤ a + radius ∧ a ≤ center.toNat + radius ∧ ∃ addr : Addr, addr.toNat = a ∧ s.read addr = b) ∧
      bytes.Pairwise fun e f => e.1 < f.1

/-- With nothing loaded, under every configuration: the host's `Start` lets one tick run, whose only instruction is the BRK that power-on memory
holds at `BOOT_PC`; it halts with 7 cycles, draws nothing, notifies once and stops (70_reset_and_hazards.md section 4; power-on memory is
decision D14, log 4). That this takes four steps (log 7) and that the timer fires once the list of inputs is empty (log 8) are the
model's choices. -/
def Obligations.UnloadedMachineHaltsInItsFirstTick : Prop :=
  ∀ c : Config, ∃ t,
    runSteps c 4 { State.powerOn c with inputs := [.host .start] } = .next t ∧
    t.halted = true ∧ t.running = false ∧ t.pc = c.bootPc + 1#16 ∧ t.frameCycles = 7 ∧ t.totalCycles = 7 ∧
    (∀ y x, fbPixel t.fb y x = none) ∧
    t.output = [.frame [], .notify
      { a := c.aInit.toNat, x := c.xInit.toNat, y := c.yInit.toNat, pc := (c.bootPc + 1#16).toNat, sp := c.spInit.toNat,
        p := c.pInit.toNat }]
end

