-- ==== Sys2Proof/Laws/Memory.lean ====
section
/-! SUPPORT. Reads after writes, and that every write keeps the canonical form of Machine/Memory.lean. -/

namespace Sys2Proof.Machine

variable {α : Type}

@[simp] theorem lookup_nil (k : Nat) : lookup ([] : List (Nat × α)) k = none := rfl

theorem lookup_eraseKey (k j : Nat) (l : List (Nat × α)) :
    lookup (eraseKey k l) j = if j = k then none else lookup l j := by
  induction l with
  | nil => simp [eraseKey]
  | cons e rest ih =>
    by_cases h : e.1 = k
    · simp only [eraseKey, h, if_true, ih, lookup]
      by_cases hj : j = k
      · simp [hj]
      · simp [hj, Ne.symm hj]
    · simp only [eraseKey, h, if_false, lookup, ih]
      by_cases hj : e.1 = j
      · simp [hj, show j ≠ k by omega]
      · simp [hj]

theorem lookup_insertKey (k j : Nat) (v : α) (l : List (Nat × α)) (h : lookup l k = none) :
    lookup (insertKey k v l) j = if j = k then some v else lookup l j := by
  induction l with
  | nil => simp [insertKey, lookup, eq_comm]
  | cons e rest ih =>
    have he : e.1 ≠ k := by
      intro he; simp [lookup, he] at h
    have hr : lookup rest k = none := by simpa [lookup, he] using h
    by_cases hlt : k < e.1
    · by_cases hj : j = k
      · simp [insertKey, hlt, lookup, hj]
      · simp [insertKey, hlt, lookup, hj, Ne.symm hj]
    · simp only [insertKey, hlt, if_false, lookup, ih hr]
      by_cases hj : e.1 = j
      · simp [hj, show j ≠ k by omega]
      · simp [hj]

/-- A key replaced reads as the new value, every other key as before. -/
theorem lookup_putKey (k j : Nat) (v : α) (l : List (Nat × α)) :
    lookup (putKey k v l) j = if j = k then some v else lookup l j := by
  rw [putKey, lookup_insertKey _ _ _ _ (by simp [lookup_eraseKey]), lookup_eraseKey]
  split <;> rfl

theorem risingFrom_mono {low low' : Nat} {l : List (Nat × α)} (h : risingFrom low l = true) (hle : low' ≤ low) :
    risingFrom low' l = true := by
  cases l with
  | nil => rfl
  | cons e rest =>
    simp only [risingFrom, Bool.and_eq_true, decide_eq_true_eq] at h ⊢
    exact ⟨by omega, h.2⟩

theorem mem_eraseKey {k : Nat} {l : List (Nat × α)} {e : Nat × α} (h : e ∈ eraseKey k l) : e ∈ l := by
  induction l with
  | nil => simp [eraseKey] at h
  | cons d rest ih =>
    by_cases hd : d.1 = k
    · exact List.mem_cons_of_mem _ (ih (by simpa [eraseKey, hd] using h))
    · rcases List.mem_cons.1 (by simpa [eraseKey, hd] using h : e ∈ d :: eraseKey k rest) with rfl | h'
      · exact List.mem_cons_self ..
      · exact List.mem_cons_of_mem _ (ih h')

theorem mem_insertKey {k : Nat} {v : α} {l : List (Nat × α)} {e : Nat × α} (h : e ∈ insertKey k v l) :
    e = (k, v) ∨ e ∈ l := by
  induction l with
  | nil => exact .inl (by simpa [insertKey] using h)
  | cons d rest ih =>
    by_cases hd : k < d.1
    · simpa [insertKey, hd] using h
    · rcases List.mem_cons.1 (by simpa [insertKey, hd] using h : e ∈ d :: insertKey k v rest) with rfl | h'
      · exact .inr (List.mem_cons_self ..)
      · exact (ih h').imp id (List.mem_cons_of_mem _)

/-- The entries of a list with a key replaced are the new one and old ones. -/
theorem mem_putKey {k : Nat} {v : α} {l : List (Nat × α)} {e : Nat × α} (h : e ∈ putKey k v l) :
    e = (k, v) ∨ e ∈ l :=
  (mem_insertKey h).imp id mem_eraseKey

theorem risingFrom_eraseKey {low k : Nat} {l : List (Nat × α)} (h : risingFrom low l = true) :
    risingFrom low (eraseKey k l) = true := by
  induction l generalizing low with
  | nil => rfl
  | cons e rest ih =>
    simp only [risingFrom, Bool.and_eq_true, decide_eq_true_eq] at h
    by_cases he : e.1 = k
    · simpa [eraseKey, he] using ih (risingFrom_mono h.2 (by omega))
    · simp [eraseKey, he, risingFrom, h.1, ih h.2]

theorem risingFrom_insertKey {low k : Nat} {v : α} {l : List (Nat × α)} (h : risingFrom low l = true) (hlow : low ≤ k)
    (hk : lookup l k = none) : risingFrom low (insertKey k v l) = true := by
  induction l generalizing low with
  | nil => simp [insertKey, risingFrom, hlow]
  | cons e rest ih =>
    have he : e.1 ≠ k := by intro he; simp [lookup, he] at hk
    have hr : lookup rest k = none := by simpa [lookup, he] using hk
    simp only [risingFrom, Bool.and_eq_true, decide_eq_true_eq] at h
    by_cases hlt : k < e.1
    · simp [insertKey, hlt, risingFrom, hlow, h.2, show k + 1 ≤ e.1 by omega]
    · simp [insertKey, hlt, risingFrom, h.1, ih h.2 (by omega) hr]

/-- Replacing a key keeps the keys strictly rising. -/
theorem risingFrom_putKey {k : Nat} {v : α} {l : List (Nat × α)} (h : risingFrom 0 l = true) :
    risingFrom 0 (putKey k v l) = true :=
  risingFrom_insertKey (risingFrom_eraseKey h) (Nat.zero_le _) (by simp [lookup_eraseKey])

namespace Memory

@[simp] theorem readByte_nil (k : Nat) : readByte [] k = unlisted := rfl

/-- A byte written reads back, and every other byte reads as before (20_memory.md R41), on every list. -/
theorem readByte_writeByte (m : List Host.Cell) (k j : Nat) (v : Byte) :
    readByte (writeByte m k v) j = if j = k then v else readByte m j := by
  by_cases hv : v = unlisted
  · by_cases hj : j = k <;> simp [writeByte, readByte, hv, lookup_eraseKey, hj]
  · by_cases hj : j = k <;> simp [writeByte, readByte, hv, lookup_putKey, hj]

theorem wf_iff {size : Nat} {m : List Host.Cell} :
    wf size m = true ↔ risingFrom 0 m = true ∧ ∀ e ∈ m, e.1 < size ∧ e.2 ≠ unlisted := by
  simp [wf, List.all_eq_true]

@[simp] theorem wf_nil (size : Nat) : wf size [] = true := rfl

/-- Writing one byte at an address of the space keeps the canonical form. -/
theorem wf_writeByte {size : Nat} {m : List Host.Cell} {k : Nat} {v : Byte} (h : wf size m = true) (hk : k < size) :
    wf size (writeByte m k v) = true := by
  rw [wf_iff] at h ⊢
  by_cases hv : v = unlisted
  · simp only [writeByte, hv, if_true]
    exact ⟨risingFrom_eraseKey h.1, fun e he => h.2 e (mem_eraseKey he)⟩
  · simp only [writeByte, hv, if_false]
    refine ⟨risingFrom_putKey h.1, fun e he => ?_⟩
    rcases mem_putKey he with rfl | he
    · exact ⟨hk, hv⟩
    · exact h.2 e he

/-- Storing a sequence of bytes inside the space keeps the canonical form. -/
theorem wf_writeBytes {size : Nat} {m : List Host.Cell} {k : Nat} {bytes : List Byte} (h : wf size m = true)
    (hk : k + bytes.length ≤ size) : wf size (writeBytes m k bytes) = true := by
  induction bytes generalizing m k with
  | nil => exact h
  | cons b bytes ih =>
    simp only [List.length_cons] at hk
    exact ih (wf_writeByte h (by omega)) (by omega)

/-- A sequence of bytes stored from an offset: the bytes of the sequence stand at their offsets, every other byte is as before
(46_host_interface.md R153, R154), on every list. -/
theorem readByte_writeBytes (m : List Host.Cell) (k j : Nat) (bytes : List Byte) :
    readByte (writeBytes m k bytes) j =
      if k ≤ j ∧ j < k + bytes.length then bytes.getD (j - k) unlisted else readByte m j := by
  induction bytes generalizing m k with
  | nil => simp [writeBytes]
  | cons b bytes ih =>
    simp only [writeBytes, ih, readByte_writeByte, List.length_cons]
    by_cases h1 : j = k
    · simp [h1]
    · by_cases h2 : k ≤ j ∧ j < k + (bytes.length + 1)
      · have h3 : k + 1 ≤ j ∧ j < k + 1 + bytes.length := by omega
        obtain ⟨d, hd⟩ : ∃ d, j - k = d + 1 := ⟨j - k - 1, by omega⟩
        simp [h2, h3, hd, show j - (k + 1) = d by omega]
      · have h3 : ¬(k + 1 ≤ j ∧ j < k + 1 + bytes.length) := by omega
        rw [if_neg h3, if_neg h1, if_neg h2]

end Memory

end Sys2Proof.Machine
end

