-- ==== Sys2Proof/Laws/State.lean ====
section
/-! SUPPORT. What each named update of Machine/Ops.lean does to each field of State: one lemma per field per update, so that no later
proof unfolds a record update. -/

namespace Sys2Proof.Machine.State

variable (s : State)

@[simp] theorem setA_a (v : Byte) : (s.setA v).a = v := rfl
@[simp] theorem setA_x (v : Byte) : (s.setA v).x = s.x := rfl
@[simp] theorem setA_y (v : Byte) : (s.setA v).y = s.y := rfl
@[simp] theorem setA_sp (v : Byte) : (s.setA v).sp = s.sp := rfl
@[simp] theorem setA_pc (v : Byte) : (s.setA v).pc = s.pc := rfl
@[simp] theorem setA_p (v : Byte) : (s.setA v).p = s.p := rfl
@[simp] theorem setA_halted (v : Byte) : (s.setA v).halted = s.halted := rfl
@[simp] theorem setA_mem (v : Byte) : (s.setA v).mem = s.mem := rfl
@[simp] theorem setA_vram (v : Byte) : (s.setA v).vram = s.vram := rfl
@[simp] theorem setA_pal (v : Byte) : (s.setA v).pal = s.pal := rfl
@[simp] theorem setA_fb (v : Byte) : (s.setA v).fb = s.fb := rfl
@[simp] theorem setA_running (v : Byte) : (s.setA v).running = s.running := rfl
@[simp] theorem setA_totalCycles (v : Byte) : (s.setA v).totalCycles = s.totalCycles := rfl
@[simp] theorem setA_lastTick (v : Byte) : (s.setA v).lastTick = s.lastTick := rfl
@[simp] theorem setA_frameCycles (v : Byte) : (s.setA v).frameCycles = s.frameCycles := rfl
@[simp] theorem setA_phase (v : Byte) : (s.setA v).phase = s.phase := rfl
@[simp] theorem setA_inputs (v : Byte) : (s.setA v).inputs = s.inputs := rfl
@[simp] theorem setA_output (v : Byte) : (s.setA v).output = s.output := rfl
@[simp] theorem setA_clockReads (v : Byte) : (s.setA v).clockReads = s.clockReads := rfl

@[simp] theorem setP_a (v : Byte) : (s.setP v).a = s.a := rfl
@[simp] theorem setP_x (v : Byte) : (s.setP v).x = s.x := rfl
@[simp] theorem setP_y (v : Byte) : (s.setP v).y = s.y := rfl
@[simp] theorem setP_sp (v : Byte) : (s.setP v).sp = s.sp := rfl
@[simp] theorem setP_pc (v : Byte) : (s.setP v).pc = s.pc := rfl
@[simp] theorem setP_p (v : Byte) : (s.setP v).p = v := rfl
@[simp] theorem setP_halted (v : Byte) : (s.setP v).halted = s.halted := rfl
@[simp] theorem setP_mem (v : Byte) : (s.setP v).mem = s.mem := rfl
@[simp] theorem setP_vram (v : Byte) : (s.setP v).vram = s.vram := rfl
@[simp] theorem setP_pal (v : Byte) : (s.setP v).pal = s.pal := rfl
@[simp] theorem setP_fb (v : Byte) : (s.setP v).fb = s.fb := rfl
@[simp] theorem setP_running (v : Byte) : (s.setP v).running = s.running := rfl
@[simp] theorem setP_totalCycles (v : Byte) : (s.setP v).totalCycles = s.totalCycles := rfl
@[simp] theorem setP_lastTick (v : Byte) : (s.setP v).lastTick = s.lastTick := rfl
@[simp] theorem setP_frameCycles (v : Byte) : (s.setP v).frameCycles = s.frameCycles := rfl
@[simp] theorem setP_phase (v : Byte) : (s.setP v).phase = s.phase := rfl
@[simp] theorem setP_inputs (v : Byte) : (s.setP v).inputs = s.inputs := rfl
@[simp] theorem setP_output (v : Byte) : (s.setP v).output = s.output := rfl
@[simp] theorem setP_clockReads (v : Byte) : (s.setP v).clockReads = s.clockReads := rfl

@[simp] theorem setPc_a (v : Addr) : (s.setPc v).a = s.a := rfl
@[simp] theorem setPc_x (v : Addr) : (s.setPc v).x = s.x := rfl
@[simp] theorem setPc_y (v : Addr) : (s.setPc v).y = s.y := rfl
@[simp] theorem setPc_sp (v : Addr) : (s.setPc v).sp = s.sp := rfl
@[simp] theorem setPc_pc (v : Addr) : (s.setPc v).pc = v := rfl
@[simp] theorem setPc_p (v : Addr) : (s.setPc v).p = s.p := rfl
@[simp] theorem setPc_halted (v : Addr) : (s.setPc v).halted = s.halted := rfl
@[simp] theorem setPc_mem (v : Addr) : (s.setPc v).mem = s.mem := rfl
@[simp] theorem setPc_vram (v : Addr) : (s.setPc v).vram = s.vram := rfl
@[simp] theorem setPc_pal (v : Addr) : (s.setPc v).pal = s.pal := rfl
@[simp] theorem setPc_fb (v : Addr) : (s.setPc v).fb = s.fb := rfl
@[simp] theorem setPc_running (v : Addr) : (s.setPc v).running = s.running := rfl
@[simp] theorem setPc_totalCycles (v : Addr) : (s.setPc v).totalCycles = s.totalCycles := rfl
@[simp] theorem setPc_lastTick (v : Addr) : (s.setPc v).lastTick = s.lastTick := rfl
@[simp] theorem setPc_frameCycles (v : Addr) : (s.setPc v).frameCycles = s.frameCycles := rfl
@[simp] theorem setPc_phase (v : Addr) : (s.setPc v).phase = s.phase := rfl
@[simp] theorem setPc_inputs (v : Addr) : (s.setPc v).inputs = s.inputs := rfl
@[simp] theorem setPc_output (v : Addr) : (s.setPc v).output = s.output := rfl
@[simp] theorem setPc_clockReads (v : Addr) : (s.setPc v).clockReads = s.clockReads := rfl

@[simp] theorem setMem_a (m : List Host.Cell) : (s.setMem m).a = s.a := rfl
@[simp] theorem setMem_x (m : List Host.Cell) : (s.setMem m).x = s.x := rfl
@[simp] theorem setMem_y (m : List Host.Cell) : (s.setMem m).y = s.y := rfl
@[simp] theorem setMem_sp (m : List Host.Cell) : (s.setMem m).sp = s.sp := rfl
@[simp] theorem setMem_pc (m : List Host.Cell) : (s.setMem m).pc = s.pc := rfl
@[simp] theorem setMem_p (m : List Host.Cell) : (s.setMem m).p = s.p := rfl
@[simp] theorem setMem_halted (m : List Host.Cell) : (s.setMem m).halted = s.halted := rfl
@[simp] theorem setMem_mem (m : List Host.Cell) : (s.setMem m).mem = m := rfl
@[simp] theorem setMem_vram (m : List Host.Cell) : (s.setMem m).vram = s.vram := rfl
@[simp] theorem setMem_pal (m : List Host.Cell) : (s.setMem m).pal = s.pal := rfl
@[simp] theorem setMem_fb (m : List Host.Cell) : (s.setMem m).fb = s.fb := rfl
@[simp] theorem setMem_running (m : List Host.Cell) : (s.setMem m).running = s.running := rfl
@[simp] theorem setMem_totalCycles (m : List Host.Cell) : (s.setMem m).totalCycles = s.totalCycles := rfl
@[simp] theorem setMem_lastTick (m : List Host.Cell) : (s.setMem m).lastTick = s.lastTick := rfl
@[simp] theorem setMem_frameCycles (m : List Host.Cell) : (s.setMem m).frameCycles = s.frameCycles := rfl
@[simp] theorem setMem_phase (m : List Host.Cell) : (s.setMem m).phase = s.phase := rfl
@[simp] theorem setMem_inputs (m : List Host.Cell) : (s.setMem m).inputs = s.inputs := rfl
@[simp] theorem setMem_output (m : List Host.Cell) : (s.setMem m).output = s.output := rfl
@[simp] theorem setMem_clockReads (m : List Host.Cell) : (s.setMem m).clockReads = s.clockReads := rfl

@[simp] theorem setVram_a (m : List Host.Cell) : (s.setVram m).a = s.a := rfl
@[simp] theorem setVram_x (m : List Host.Cell) : (s.setVram m).x = s.x := rfl
@[simp] theorem setVram_y (m : List Host.Cell) : (s.setVram m).y = s.y := rfl
@[simp] theorem setVram_sp (m : List Host.Cell) : (s.setVram m).sp = s.sp := rfl
@[simp] theorem setVram_pc (m : List Host.Cell) : (s.setVram m).pc = s.pc := rfl
@[simp] theorem setVram_p (m : List Host.Cell) : (s.setVram m).p = s.p := rfl
@[simp] theorem setVram_halted (m : List Host.Cell) : (s.setVram m).halted = s.halted := rfl
@[simp] theorem setVram_mem (m : List Host.Cell) : (s.setVram m).mem = s.mem := rfl
@[simp] theorem setVram_vram (m : List Host.Cell) : (s.setVram m).vram = m := rfl
@[simp] theorem setVram_pal (m : List Host.Cell) : (s.setVram m).pal = s.pal := rfl
@[simp] theorem setVram_fb (m : List Host.Cell) : (s.setVram m).fb = s.fb := rfl
@[simp] theorem setVram_running (m : List Host.Cell) : (s.setVram m).running = s.running := rfl
@[simp] theorem setVram_totalCycles (m : List Host.Cell) : (s.setVram m).totalCycles = s.totalCycles := rfl
@[simp] theorem setVram_lastTick (m : List Host.Cell) : (s.setVram m).lastTick = s.lastTick := rfl
@[simp] theorem setVram_frameCycles (m : List Host.Cell) : (s.setVram m).frameCycles = s.frameCycles := rfl
@[simp] theorem setVram_phase (m : List Host.Cell) : (s.setVram m).phase = s.phase := rfl
@[simp] theorem setVram_inputs (m : List Host.Cell) : (s.setVram m).inputs = s.inputs := rfl
@[simp] theorem setVram_output (m : List Host.Cell) : (s.setVram m).output = s.output := rfl
@[simp] theorem setVram_clockReads (m : List Host.Cell) : (s.setVram m).clockReads = s.clockReads := rfl

@[simp] theorem setPal_a (pal : List Rgb) : (s.setPal pal).a = s.a := rfl
@[simp] theorem setPal_x (pal : List Rgb) : (s.setPal pal).x = s.x := rfl
@[simp] theorem setPal_y (pal : List Rgb) : (s.setPal pal).y = s.y := rfl
@[simp] theorem setPal_sp (pal : List Rgb) : (s.setPal pal).sp = s.sp := rfl
@[simp] theorem setPal_pc (pal : List Rgb) : (s.setPal pal).pc = s.pc := rfl
@[simp] theorem setPal_p (pal : List Rgb) : (s.setPal pal).p = s.p := rfl
@[simp] theorem setPal_halted (pal : List Rgb) : (s.setPal pal).halted = s.halted := rfl
@[simp] theorem setPal_mem (pal : List Rgb) : (s.setPal pal).mem = s.mem := rfl
@[simp] theorem setPal_vram (pal : List Rgb) : (s.setPal pal).vram = s.vram := rfl
@[simp] theorem setPal_pal (pal : List Rgb) : (s.setPal pal).pal = pal := rfl
@[simp] theorem setPal_fb (pal : List Rgb) : (s.setPal pal).fb = s.fb := rfl
@[simp] theorem setPal_running (pal : List Rgb) : (s.setPal pal).running = s.running := rfl
@[simp] theorem setPal_totalCycles (pal : List Rgb) : (s.setPal pal).totalCycles = s.totalCycles := rfl
@[simp] theorem setPal_lastTick (pal : List Rgb) : (s.setPal pal).lastTick = s.lastTick := rfl
@[simp] theorem setPal_frameCycles (pal : List Rgb) : (s.setPal pal).frameCycles = s.frameCycles := rfl
@[simp] theorem setPal_phase (pal : List Rgb) : (s.setPal pal).phase = s.phase := rfl
@[simp] theorem setPal_inputs (pal : List Rgb) : (s.setPal pal).inputs = s.inputs := rfl
@[simp] theorem setPal_output (pal : List Rgb) : (s.setPal pal).output = s.output := rfl
@[simp] theorem setPal_clockReads (pal : List Rgb) : (s.setPal pal).clockReads = s.clockReads := rfl

@[simp] theorem setFb_a (fb : List (Nat × Rgb)) : (s.setFb fb).a = s.a := rfl
@[simp] theorem setFb_x (fb : List (Nat × Rgb)) : (s.setFb fb).x = s.x := rfl
@[simp] theorem setFb_y (fb : List (Nat × Rgb)) : (s.setFb fb).y = s.y := rfl
@[simp] theorem setFb_sp (fb : List (Nat × Rgb)) : (s.setFb fb).sp = s.sp := rfl
@[simp] theorem setFb_pc (fb : List (Nat × Rgb)) : (s.setFb fb).pc = s.pc := rfl
@[simp] theorem setFb_p (fb : List (Nat × Rgb)) : (s.setFb fb).p = s.p := rfl
@[simp] theorem setFb_halted (fb : List (Nat × Rgb)) : (s.setFb fb).halted = s.halted := rfl
@[simp] theorem setFb_mem (fb : List (Nat × Rgb)) : (s.setFb fb).mem = s.mem := rfl
@[simp] theorem setFb_vram (fb : List (Nat × Rgb)) : (s.setFb fb).vram = s.vram := rfl
@[simp] theorem setFb_pal (fb : List (Nat × Rgb)) : (s.setFb fb).pal = s.pal := rfl
@[simp] theorem setFb_fb (fb : List (Nat × Rgb)) : (s.setFb fb).fb = fb := rfl
@[simp] theorem setFb_running (fb : List (Nat × Rgb)) : (s.setFb fb).running = s.running := rfl
@[simp] theorem setFb_totalCycles (fb : List (Nat × Rgb)) : (s.setFb fb).totalCycles = s.totalCycles := rfl
@[simp] theorem setFb_lastTick (fb : List (Nat × Rgb)) : (s.setFb fb).lastTick = s.lastTick := rfl
@[simp] theorem setFb_frameCycles (fb : List (Nat × Rgb)) : (s.setFb fb).frameCycles = s.frameCycles := rfl
@[simp] theorem setFb_phase (fb : List (Nat × Rgb)) : (s.setFb fb).phase = s.phase := rfl
@[simp] theorem setFb_inputs (fb : List (Nat × Rgb)) : (s.setFb fb).inputs = s.inputs := rfl
@[simp] theorem setFb_output (fb : List (Nat × Rgb)) : (s.setFb fb).output = s.output := rfl
@[simp] theorem setFb_clockReads (fb : List (Nat × Rgb)) : (s.setFb fb).clockReads = s.clockReads := rfl

@[simp] theorem halt_a : (s.halt).a = s.a := rfl
@[simp] theorem halt_x : (s.halt).x = s.x := rfl
@[simp] theorem halt_y : (s.halt).y = s.y := rfl
@[simp] theorem halt_sp : (s.halt).sp = s.sp := rfl
@[simp] theorem halt_pc : (s.halt).pc = s.pc := rfl
@[simp] theorem halt_p : (s.halt).p = s.p := rfl
@[simp] theorem halt_halted : (s.halt).halted = true := rfl
@[simp] theorem halt_mem : (s.halt).mem = s.mem := rfl
@[simp] theorem halt_vram : (s.halt).vram = s.vram := rfl
@[simp] theorem halt_pal : (s.halt).pal = s.pal := rfl
@[simp] theorem halt_fb : (s.halt).fb = s.fb := rfl
@[simp] theorem halt_running : (s.halt).running = s.running := rfl
@[simp] theorem halt_totalCycles : (s.halt).totalCycles = s.totalCycles := rfl
@[simp] theorem halt_lastTick : (s.halt).lastTick = s.lastTick := rfl
@[simp] theorem halt_frameCycles : (s.halt).frameCycles = s.frameCycles := rfl
@[simp] theorem halt_phase : (s.halt).phase = s.phase := rfl
@[simp] theorem halt_inputs : (s.halt).inputs = s.inputs := rfl
@[simp] theorem halt_output : (s.halt).output = s.output := rfl
@[simp] theorem halt_clockReads : (s.halt).clockReads = s.clockReads := rfl

@[simp] theorem setRunning_a (b : Bool) : (s.setRunning b).a = s.a := rfl
@[simp] theorem setRunning_x (b : Bool) : (s.setRunning b).x = s.x := rfl
@[simp] theorem setRunning_y (b : Bool) : (s.setRunning b).y = s.y := rfl
@[simp] theorem setRunning_sp (b : Bool) : (s.setRunning b).sp = s.sp := rfl
@[simp] theorem setRunning_pc (b : Bool) : (s.setRunning b).pc = s.pc := rfl
@[simp] theorem setRunning_p (b : Bool) : (s.setRunning b).p = s.p := rfl
@[simp] theorem setRunning_halted (b : Bool) : (s.setRunning b).halted = s.halted := rfl
@[simp] theorem setRunning_mem (b : Bool) : (s.setRunning b).mem = s.mem := rfl
@[simp] theorem setRunning_vram (b : Bool) : (s.setRunning b).vram = s.vram := rfl
@[simp] theorem setRunning_pal (b : Bool) : (s.setRunning b).pal = s.pal := rfl
@[simp] theorem setRunning_fb (b : Bool) : (s.setRunning b).fb = s.fb := rfl
@[simp] theorem setRunning_running (b : Bool) : (s.setRunning b).running = b := rfl
@[simp] theorem setRunning_totalCycles (b : Bool) : (s.setRunning b).totalCycles = s.totalCycles := rfl
@[simp] theorem setRunning_lastTick (b : Bool) : (s.setRunning b).lastTick = s.lastTick := rfl
@[simp] theorem setRunning_frameCycles (b : Bool) : (s.setRunning b).frameCycles = s.frameCycles := rfl
@[simp] theorem setRunning_phase (b : Bool) : (s.setRunning b).phase = s.phase := rfl
@[simp] theorem setRunning_inputs (b : Bool) : (s.setRunning b).inputs = s.inputs := rfl
@[simp] theorem setRunning_output (b : Bool) : (s.setRunning b).output = s.output := rfl
@[simp] theorem setRunning_clockReads (b : Bool) : (s.setRunning b).clockReads = s.clockReads := rfl

@[simp] theorem setInputs_a (inputs : List Input) : (s.setInputs inputs).a = s.a := rfl
@[simp] theorem setInputs_x (inputs : List Input) : (s.setInputs inputs).x = s.x := rfl
@[simp] theorem setInputs_y (inputs : List Input) : (s.setInputs inputs).y = s.y := rfl
@[simp] theorem setInputs_sp (inputs : List Input) : (s.setInputs inputs).sp = s.sp := rfl
@[simp] theorem setInputs_pc (inputs : List Input) : (s.setInputs inputs).pc = s.pc := rfl
@[simp] theorem setInputs_p (inputs : List Input) : (s.setInputs inputs).p = s.p := rfl
@[simp] theorem setInputs_halted (inputs : List Input) : (s.setInputs inputs).halted = s.halted := rfl
@[simp] theorem setInputs_mem (inputs : List Input) : (s.setInputs inputs).mem = s.mem := rfl
@[simp] theorem setInputs_vram (inputs : List Input) : (s.setInputs inputs).vram = s.vram := rfl
@[simp] theorem setInputs_pal (inputs : List Input) : (s.setInputs inputs).pal = s.pal := rfl
@[simp] theorem setInputs_fb (inputs : List Input) : (s.setInputs inputs).fb = s.fb := rfl
@[simp] theorem setInputs_running (inputs : List Input) : (s.setInputs inputs).running = s.running := rfl
@[simp] theorem setInputs_totalCycles (inputs : List Input) : (s.setInputs inputs).totalCycles = s.totalCycles := rfl
@[simp] theorem setInputs_lastTick (inputs : List Input) : (s.setInputs inputs).lastTick = s.lastTick := rfl
@[simp] theorem setInputs_frameCycles (inputs : List Input) : (s.setInputs inputs).frameCycles = s.frameCycles := rfl
@[simp] theorem setInputs_phase (inputs : List Input) : (s.setInputs inputs).phase = s.phase := rfl
@[simp] theorem setInputs_inputs (inputs : List Input) : (s.setInputs inputs).inputs = inputs := rfl
@[simp] theorem setInputs_output (inputs : List Input) : (s.setInputs inputs).output = s.output := rfl
@[simp] theorem setInputs_clockReads (inputs : List Input) : (s.setInputs inputs).clockReads = s.clockReads := rfl

@[simp] theorem addCycles_a (n : Nat) : (s.addCycles n).a = s.a := rfl
@[simp] theorem addCycles_x (n : Nat) : (s.addCycles n).x = s.x := rfl
@[simp] theorem addCycles_y (n : Nat) : (s.addCycles n).y = s.y := rfl
@[simp] theorem addCycles_sp (n : Nat) : (s.addCycles n).sp = s.sp := rfl
@[simp] theorem addCycles_pc (n : Nat) : (s.addCycles n).pc = s.pc := rfl
@[simp] theorem addCycles_p (n : Nat) : (s.addCycles n).p = s.p := rfl
@[simp] theorem addCycles_halted (n : Nat) : (s.addCycles n).halted = s.halted := rfl
@[simp] theorem addCycles_mem (n : Nat) : (s.addCycles n).mem = s.mem := rfl
@[simp] theorem addCycles_vram (n : Nat) : (s.addCycles n).vram = s.vram := rfl
@[simp] theorem addCycles_pal (n : Nat) : (s.addCycles n).pal = s.pal := rfl
@[simp] theorem addCycles_fb (n : Nat) : (s.addCycles n).fb = s.fb := rfl
@[simp] theorem addCycles_running (n : Nat) : (s.addCycles n).running = s.running := rfl
@[simp] theorem addCycles_totalCycles (n : Nat) : (s.addCycles n).totalCycles = s.totalCycles + n := rfl
@[simp] theorem addCycles_lastTick (n : Nat) : (s.addCycles n).lastTick = s.lastTick := rfl
@[simp] theorem addCycles_frameCycles (n : Nat) : (s.addCycles n).frameCycles = s.frameCycles + n := rfl
@[simp] theorem addCycles_phase (n : Nat) : (s.addCycles n).phase = s.phase := rfl
@[simp] theorem addCycles_inputs (n : Nat) : (s.addCycles n).inputs = s.inputs := rfl
@[simp] theorem addCycles_output (n : Nat) : (s.addCycles n).output = s.output := rfl
@[simp] theorem addCycles_clockReads (n : Nat) : (s.addCycles n).clockReads = s.clockReads := rfl

@[simp] theorem beginFrame_a (phase : Phase) : (s.beginFrame phase).a = s.a := rfl
@[simp] theorem beginFrame_x (phase : Phase) : (s.beginFrame phase).x = s.x := rfl
@[simp] theorem beginFrame_y (phase : Phase) : (s.beginFrame phase).y = s.y := rfl
@[simp] theorem beginFrame_sp (phase : Phase) : (s.beginFrame phase).sp = s.sp := rfl
@[simp] theorem beginFrame_pc (phase : Phase) : (s.beginFrame phase).pc = s.pc := rfl
@[simp] theorem beginFrame_p (phase : Phase) : (s.beginFrame phase).p = s.p := rfl
@[simp] theorem beginFrame_halted (phase : Phase) : (s.beginFrame phase).halted = s.halted := rfl
@[simp] theorem beginFrame_mem (phase : Phase) : (s.beginFrame phase).mem = s.mem := rfl
@[simp] theorem beginFrame_vram (phase : Phase) : (s.beginFrame phase).vram = s.vram := rfl
@[simp] theorem beginFrame_pal (phase : Phase) : (s.beginFrame phase).pal = s.pal := rfl
@[simp] theorem beginFrame_fb (phase : Phase) : (s.beginFrame phase).fb = s.fb := rfl
@[simp] theorem beginFrame_running (phase : Phase) : (s.beginFrame phase).running = s.running := rfl
@[simp] theorem beginFrame_totalCycles (phase : Phase) : (s.beginFrame phase).totalCycles = s.totalCycles := rfl
@[simp] theorem beginFrame_lastTick (phase : Phase) : (s.beginFrame phase).lastTick = s.lastTick := rfl
@[simp] theorem beginFrame_frameCycles (phase : Phase) : (s.beginFrame phase).frameCycles = 0 := rfl
@[simp] theorem beginFrame_phase (phase : Phase) : (s.beginFrame phase).phase = phase := rfl
@[simp] theorem beginFrame_inputs (phase : Phase) : (s.beginFrame phase).inputs = s.inputs := rfl
@[simp] theorem beginFrame_output (phase : Phase) : (s.beginFrame phase).output = s.output := rfl
@[simp] theorem beginFrame_clockReads (phase : Phase) : (s.beginFrame phase).clockReads = s.clockReads := rfl

@[simp] theorem closeFrame_a : (s.closeFrame).a = s.a := rfl
@[simp] theorem closeFrame_x : (s.closeFrame).x = s.x := rfl
@[simp] theorem closeFrame_y : (s.closeFrame).y = s.y := rfl
@[simp] theorem closeFrame_sp : (s.closeFrame).sp = s.sp := rfl
@[simp] theorem closeFrame_pc : (s.closeFrame).pc = s.pc := rfl
@[simp] theorem closeFrame_p : (s.closeFrame).p = s.p := rfl
@[simp] theorem closeFrame_halted : (s.closeFrame).halted = s.halted := rfl
@[simp] theorem closeFrame_mem : (s.closeFrame).mem = s.mem := rfl
@[simp] theorem closeFrame_vram : (s.closeFrame).vram = s.vram := rfl
@[simp] theorem closeFrame_pal : (s.closeFrame).pal = s.pal := rfl
@[simp] theorem closeFrame_fb : (s.closeFrame).fb = s.fb := rfl
@[simp] theorem closeFrame_running : (s.closeFrame).running = s.running := rfl
@[simp] theorem closeFrame_totalCycles : (s.closeFrame).totalCycles = s.totalCycles := rfl
@[simp] theorem closeFrame_lastTick : (s.closeFrame).lastTick = s.lastTick := rfl
@[simp] theorem closeFrame_frameCycles : (s.closeFrame).frameCycles = s.frameCycles := rfl
@[simp] theorem closeFrame_phase : (s.closeFrame).phase = .between := rfl
@[simp] theorem closeFrame_inputs : (s.closeFrame).inputs = s.inputs := rfl
@[simp] theorem closeFrame_output : (s.closeFrame).output = s.output := rfl
@[simp] theorem closeFrame_clockReads : (s.closeFrame).clockReads = s.clockReads := rfl

@[simp] theorem emit_a (events : List Event) : (s.emit events).a = s.a := rfl
@[simp] theorem emit_x (events : List Event) : (s.emit events).x = s.x := rfl
@[simp] theorem emit_y (events : List Event) : (s.emit events).y = s.y := rfl
@[simp] theorem emit_sp (events : List Event) : (s.emit events).sp = s.sp := rfl
@[simp] theorem emit_pc (events : List Event) : (s.emit events).pc = s.pc := rfl
@[simp] theorem emit_p (events : List Event) : (s.emit events).p = s.p := rfl
@[simp] theorem emit_halted (events : List Event) : (s.emit events).halted = s.halted := rfl
@[simp] theorem emit_mem (events : List Event) : (s.emit events).mem = s.mem := rfl
@[simp] theorem emit_vram (events : List Event) : (s.emit events).vram = s.vram := rfl
@[simp] theorem emit_pal (events : List Event) : (s.emit events).pal = s.pal := rfl
@[simp] theorem emit_fb (events : List Event) : (s.emit events).fb = s.fb := rfl
@[simp] theorem emit_running (events : List Event) : (s.emit events).running = s.running := rfl
@[simp] theorem emit_totalCycles (events : List Event) : (s.emit events).totalCycles = s.totalCycles := rfl
@[simp] theorem emit_lastTick (events : List Event) : (s.emit events).lastTick = s.lastTick := rfl
@[simp] theorem emit_frameCycles (events : List Event) : (s.emit events).frameCycles = s.frameCycles := rfl
@[simp] theorem emit_phase (events : List Event) : (s.emit events).phase = s.phase := rfl
@[simp] theorem emit_inputs (events : List Event) : (s.emit events).inputs = s.inputs := rfl
@[simp] theorem emit_output (events : List Event) : (s.emit events).output = s.output ++ events := rfl
@[simp] theorem emit_clockReads (events : List Event) : (s.emit events).clockReads = s.clockReads := rfl

@[simp] theorem stampTick_a : (s.stampTick).a = s.a := rfl
@[simp] theorem stampTick_x : (s.stampTick).x = s.x := rfl
@[simp] theorem stampTick_y : (s.stampTick).y = s.y := rfl
@[simp] theorem stampTick_sp : (s.stampTick).sp = s.sp := rfl
@[simp] theorem stampTick_pc : (s.stampTick).pc = s.pc := rfl
@[simp] theorem stampTick_p : (s.stampTick).p = s.p := rfl
@[simp] theorem stampTick_halted : (s.stampTick).halted = s.halted := rfl
@[simp] theorem stampTick_mem : (s.stampTick).mem = s.mem := rfl
@[simp] theorem stampTick_vram : (s.stampTick).vram = s.vram := rfl
@[simp] theorem stampTick_pal : (s.stampTick).pal = s.pal := rfl
@[simp] theorem stampTick_fb : (s.stampTick).fb = s.fb := rfl
@[simp] theorem stampTick_running : (s.stampTick).running = s.running := rfl
@[simp] theorem stampTick_totalCycles : (s.stampTick).totalCycles = s.totalCycles := rfl
@[simp] theorem stampTick_lastTick : (s.stampTick).lastTick = Config.wallClock s.clockReads := rfl
@[simp] theorem stampTick_frameCycles : (s.stampTick).frameCycles = s.frameCycles := rfl
@[simp] theorem stampTick_phase : (s.stampTick).phase = s.phase := rfl
@[simp] theorem stampTick_inputs : (s.stampTick).inputs = s.inputs := rfl
@[simp] theorem stampTick_output : (s.stampTick).output = s.output := rfl
@[simp] theorem stampTick_clockReads : (s.stampTick).clockReads = s.clockReads + 1 := rfl

end Sys2Proof.Machine.State
end

