-- ==== Sys2Proof/Laws/Ops.lean ====
section
/-! SUPPORT. What each shared operation over registers and memory does, said once. -/

namespace Sys2Proof.Machine

namespace State

variable (s : State)

/-- A byte written to `Mem` reads back, every other byte reads as before. -/
theorem read_write (addr b : Addr) (v : Byte) : (s.write addr v).read b = if b = addr then v else s.read b := by
  simp only [read, write, setMem_mem, Memory.readByte_writeByte]
  by_cases h : b = addr
  · simp [h]
  · simp [h, show b.toNat ≠ addr.toNat from fun e => h (BitVec.eq_of_toNat_eq e)]

@[simp] theorem read_write_self (addr : Addr) (v : Byte) : (s.write addr v).read addr = v := by simp [read_write]

/-- A write changes `Mem` and nothing else (20_memory.md R41). -/
theorem write_eq (addr : Addr) (v : Byte) : s.write addr v = s.setMem (s.write addr v).mem := rfl

@[simp] theorem read_setA (v : Byte) (b : Addr) : (s.setA v).read b = s.read b := rfl
@[simp] theorem read_setP (v : Byte) (b : Addr) : (s.setP v).read b = s.read b := rfl
@[simp] theorem read_setPc (v : Addr) (b : Addr) : (s.setPc v).read b = s.read b := rfl
@[simp] theorem read_halt (b : Addr) : s.halt.read b = s.read b := rfl
@[simp] theorem read_addCycles (n : Nat) (b : Addr) : (s.addCycles n).read b = s.read b := rfl
@[simp] theorem read_beginFrame (ph : Phase) (b : Addr) : (s.beginFrame ph).read b = s.read b := rfl
@[simp] theorem read_setInputs (is : List Input) (b : Addr) : (s.setInputs is).read b = s.read b := rfl

/-- A word written: its low byte at the address, its high byte at the next one, every other byte as before. -/
theorem read_writeWord (addr b v : Addr) :
    (s.writeWord addr v).read b = if b = addr + 1#16 then highByte v else if b = addr then lowByte v else s.read b := by
  simp [writeWord, read_write]

/-- A word write changes `Mem` and nothing else. -/
theorem writeWord_eq (addr v : Addr) : s.writeWord addr v = s.setMem (s.writeWord addr v).mem := rfl

/-- Storing a sequence of bytes changes `Mem` and nothing else. -/
theorem writeAll_eq (addr : Addr) (bytes : List Byte) : s.writeAll addr bytes = s.setMem (s.writeAll addr bytes).mem := by
  induction bytes generalizing s addr with
  | nil => rfl
  | cons b bytes ih => simp only [writeAll]; rw [ih]; rfl

/-- A sequence of bytes stored from an address upwards, modulo 2^16: the bytes of the sequence stand at their distances from it, every
other byte is as before (46_host_interface.md R151). -/
theorem read_writeAll (origin : Addr) (bytes : List Byte) (hl : bytes.length ≤ Config.memSize) (a : Addr) :
    (s.writeAll origin bytes).read a = (bytes[(a - origin).toNat]?).getD (s.read a) := by
  induction bytes generalizing s origin with
  | nil => simp [writeAll]
  | cons b bytes ih =>
    simp only [List.length_cons, Config.memSize] at hl ih
    rw [writeAll, ih _ _ (by omega), read_write]
    by_cases h : a = origin
    · subst h
      simp [List.getElem?_eq_none (show bytes.length ≤ 65535 by omega)]
    · have h1 : (a - origin).toNat = (a - (origin + 1#16)).toNat + 1 := by
        have hne : a - origin ≠ 0#16 := fun hh => h (by rw [BitVec.sub_eq_iff_eq_add] at hh; simpa using hh)
        have e : a - (origin + 1#16) = (a - origin) - 1#16 := by
          rw [BitVec.sub_eq_add_neg, BitVec.neg_add, BitVec.sub_eq_add_neg (a - origin), BitVec.sub_eq_add_neg a,
            BitVec.add_assoc, BitVec.sub_eq_add_neg]
        have h0 : (a - origin).toNat ≠ 0 := fun hh => hne (BitVec.eq_of_toNat_eq (by simpa using hh))
        rw [e]
        have := (a - origin).isLt
        generalize a - origin = d at *
        simp [BitVec.toNat_sub]
        omega
      rw [h1, List.getElem?_cons_succ, if_neg h]

/-- Storing a sequence of bytes keeps the canonical form of `Mem`. -/
theorem writeAll_wf {addr : Addr} {bytes : List Byte} (h : Memory.wf Config.memSize s.mem = true) :
    Memory.wf Config.memSize (s.writeAll addr bytes).mem = true := by
  induction bytes generalizing s addr with
  | nil => exact h
  | cons b bytes ih => exact ih _ (Memory.wf_writeByte h addr.isLt)

/-- Writing one byte keeps the canonical form of `Mem`. -/
theorem write_wf {addr : Addr} {v : Byte} (h : Memory.wf Config.memSize s.mem = true) :
    Memory.wf Config.memSize (s.write addr v).mem = true :=
  Memory.wf_writeByte h addr.isLt

/-- Writing one word keeps the canonical form of `Mem`. -/
theorem writeWord_wf {addr v : Addr} (h : Memory.wf Config.memSize s.mem = true) :
    Memory.wf Config.memSize (s.writeWord addr v).mem = true :=
  write_wf _ (write_wf _ h)

/-- The reset machine's memories are in canonical form. -/
theorem reset_memories_wf :
    Memory.wf Config.memSize State.reset.mem = true ∧ Memory.wf Config.vramSize State.reset.vram = true := by
  decide

@[simp] theorem advancePc_eq (n : Nat) : s.advancePc n = s.setPc (s.pc + BitVec.ofNat 16 n) := rfl

@[simp] theorem warmReset_eq : s.warmReset = s.setPc (s.readWord Config.resetVector) := rfl

@[simp] theorem refreshFlags_eq (v : Byte) : s.refreshFlags v = s.setP (updateFlags s.p v) := rfl

end State

/-- The three parts of the flag update (40_cpu_execute.md R82), bit by bit. -/
theorem getLsbD_updateFlags (p v : Byte) (i : Nat) :
    (updateFlags p v).getLsbD i = if i = 1 then decide (v = 0) else if i = 7 then v.getLsbD 7 else p.getLsbD i := by
  by_cases h : i < 8
  · have hz : zMask = 0x02#8 := by decide
    have hn : nMask = 0x80#8 := by decide
    simp only [updateFlags, hz, hn]
    cases hv : decide (v = 0#8) <;> cases h7 : v.getLsbD 7 <;>
      simp only [decide_eq_true_eq, decide_eq_false_iff_not] at hv <;>
      interval_cases i <;> simp_all
  · rw [BitVec.getLsbD_of_ge _ i (by omega), BitVec.getLsbD_of_ge p i (by omega), if_neg (by omega), if_neg (by omega)]

/-- A load changes A and the two flags, nothing else. -/
theorem loadAccumulator_eq (v : Byte) (s : State) : loadAccumulator v s = (s.setA v).setP (updateFlags s.p v) := rfl

/-- The state an instruction leaves, written without the operand forms. -/
def effectOf (i : Instr) (s : State) : State :=
  match i with
  | .ldaImm imm8 => ((s.advancePc 2).setA imm8).setP (updateFlags s.p imm8)
  | .ldaAbs addr => ((s.advancePc 3).setA (s.read addr)).setP (updateFlags s.p (s.read addr))
  | .staAbs addr => (s.advancePc 3).write addr s.a
  | .jmpAbs addr => s.setPc addr
  | .nop => s.advancePc 1
  | .brk => (s.advancePc 1).halt
  | .undef _ => s.advancePc 1

/-- What an instruction can do, said once: if `exec` answers a next state, it is this one. -/
theorem exec_next {i : Instr} {s t : State} (h : exec i s = .next t) : t = effectOf i s := by
  cases i <;> exact (Host.Outcome.next.inj h).symm

end Sys2Proof.Machine
end

