-- ==== Sys2Proof/Laws/Fetch.lean ====
section
/-! SUPPORT. What the fetch can give, said once: one case per row of the opcode table, the opcode byte with it. -/

namespace Sys2Proof.Machine

/-- Joining two bytes is the expression of 30_encoding.md R67. -/
theorem joinBytes_eq_addressOf (lo hi : Byte) : joinBytes lo hi = addressOf lo hi := by
  apply BitVec.eq_of_toNat_eq
  simp only [joinBytes, addressOf, BitVec.toNat_append, BitVec.toNat_or, BitVec.toNat_setWidth, BitVec.toNat_shiftLeft]
  have h1 := lo.isLt
  have h2 := hi.isLt
  rw [Nat.mod_eq_of_lt (by omega : lo.toNat < 2 ^ 16), Nat.mod_eq_of_lt (by omega : hi.toNat < 2 ^ 16),
    Nat.mod_eq_of_lt (by rw [Nat.shiftLeft_eq]; omega), Nat.or_comm]

/-- The two bytes after the opcode, joined, are the operand address. -/
theorem joinBytes_operand (s : State) : joinBytes (s.read (s.pc + 1#16)) (s.read (s.pc + 2#16)) = operandAddress s :=
  joinBytes_eq_addressOf _ _

/-- The rows of the opcode table (30_encoding.md R64), each with the opcode byte that selects it and the operand it takes. -/
inductive FetchCase (s : State) : Instr → Prop where
  | ldaImm : s.read s.pc = 0xA9#8 → FetchCase s (.ldaImm (s.read (s.pc + 1#16)))
  | ldaAbs : s.read s.pc = 0xAD#8 → FetchCase s (.ldaAbs (operandAddress s))
  | staAbs : s.read s.pc = 0x8D#8 → FetchCase s (.staAbs (operandAddress s))
  | jmpAbs : s.read s.pc = 0x4C#8 → FetchCase s (.jmpAbs (operandAddress s))
  | nop : s.read s.pc = 0xEA#8 → FetchCase s .nop
  | brk : s.read s.pc = 0x00#8 → FetchCase s .brk
  | undef : s.read s.pc ∉ ([0x00#8, 0x4C#8, 0x8D#8, 0xA9#8, 0xAD#8, 0xEA#8] : List Byte) →
      FetchCase s (.undef (s.read s.pc))

/-- What the fetch gives is always one of those rows. -/
theorem fetchInstr_cases (s : State) : FetchCase s s.fetchInstr := by
  unfold State.fetchInstr decodeInstr
  split
  · exact .ldaImm ‹_›
  split
  · rw [joinBytes_operand]; exact .ldaAbs ‹_›
  split
  · rw [joinBytes_operand]; exact .staAbs ‹_›
  split
  · rw [joinBytes_operand]; exact .jmpAbs ‹_›
  split
  · exact .nop ‹_›
  split
  · exact .brk ‹_›
  · exact .undef (by simp [*])

end Sys2Proof.Machine
end

