-- ==== Sys2Proof/Laws/PerInstr.lean ====
section
/-! SUPPORT. Facts about every instruction as syntax, one lemma per constructor. -/

namespace Sys2Proof.Laws

/-- An instruction's encoding is as long as its row says, begins with its opcode byte, and that opcode's format has that length
(30_encoding.md R60, R61, R64). An undefined opcode is meant well formed. -/
def EncodingLength.Statement (i : Instr) : Prop :=
  i.wellFormed = true →
    (encode i).length = instrLength i ∧ (encode i).head? = some (opcodeOf i) ∧
      (formatOf (opcodeOf i)).length = instrLength i

theorem EncodingLength.ldaImm (imm8 : Byte) : EncodingLength.Statement (.ldaImm imm8) := fun _ => ⟨rfl, rfl, rfl⟩

theorem EncodingLength.ldaAbs (addr : Addr) : EncodingLength.Statement (.ldaAbs addr) := fun _ => ⟨rfl, rfl, rfl⟩

theorem EncodingLength.staAbs (addr : Addr) : EncodingLength.Statement (.staAbs addr) := fun _ => ⟨rfl, rfl, rfl⟩

theorem EncodingLength.jmpAbs (addr : Addr) : EncodingLength.Statement (.jmpAbs addr) := fun _ => ⟨rfl, rfl, rfl⟩

theorem EncodingLength.nop : EncodingLength.Statement .nop := fun _ => ⟨rfl, rfl, rfl⟩

theorem EncodingLength.brk : EncodingLength.Statement .brk := fun _ => ⟨rfl, rfl, rfl⟩

theorem EncodingLength.undef (opcode : Byte) : EncodingLength.Statement (.undef opcode) := by
  intro h
  refine ⟨rfl, rfl, ?_⟩
  simp [Instr.wellFormed, isDefinedOpcode, definedOpcodes] at h
  simp [opcodeOf, formatOf, h, Format.length, instrLength]

end Sys2Proof.Laws
end

