-- ==== Sys2Proof/Laws/Ppu.lean ====
section
/-! SUPPORT. What painting does to a framebuffer, said once. -/

namespace Sys2Proof.Machine

/-- Painting a list is painting its first part and then its second. -/
theorem paintAll_append (fb ps qs : List (Nat × Rgb)) : paintAll fb (ps ++ qs) = paintAll (paintAll fb ps) qs := by
  induction ps generalizing fb with
  | nil => rfl
  | cons e ps ih => exact ih _

/-- A pixel that no entry names reads as before. -/
theorem lookup_paintAll_of_notMem {fb ps : List (Nat × Rgb)} {k : Nat} (h : ∀ e ∈ ps, e.1 ≠ k) :
    lookup (paintAll fb ps) k = lookup fb k := by
  induction ps generalizing fb with
  | nil => rfl
  | cons e ps ih =>
    rw [paintAll, ih fun e' he' => h e' (List.mem_cons_of_mem _ he'), lookup_putKey,
      if_neg (Ne.symm (h e (List.mem_cons_self ..)))]

/-- A pixel that some entry names, all such entries with one colour, reads as that colour. -/
theorem lookup_paintAll_of_mem {fb ps : List (Nat × Rgb)} {k : Nat} {rgb : Rgb} (hm : (k, rgb) ∈ ps)
    (hu : ∀ e ∈ ps, e.1 = k → e.2 = rgb) : lookup (paintAll fb ps) k = some rgb := by
  induction ps generalizing fb with
  | nil => cases hm
  | cons e ps ih =>
    by_cases hin : (k, rgb) ∈ ps
    · exact ih hin fun e' he' => hu e' (List.mem_cons_of_mem _ he')
    · rcases List.mem_cons.1 hm with rfl | hm
      · rw [paintAll, lookup_paintAll_of_notMem, lookup_putKey, if_pos rfl]
        intro e' he' hk
        exact hin ((Prod.ext hk (hu e' (List.mem_cons_of_mem _ he') hk) : e' = (k, rgb)) ▸ he')
      · exact absurd hm hin

/-- Painting keeps a framebuffer's keys strictly rising. -/
theorem risingFrom_paintAll {fb ps : List (Nat × Rgb)} (h : risingFrom 0 fb = true) :
    risingFrom 0 (paintAll fb ps) = true := by
  induction ps generalizing fb with
  | nil => exact h
  | cons e ps ih => exact ih (risingFrom_putKey h)

/-- What a painted framebuffer lists was there before or was painted. -/
theorem mem_paintAll {fb ps : List (Nat × Rgb)} {e : Nat × Rgb} (h : e ∈ paintAll fb ps) : e ∈ fb ∨ e ∈ ps := by
  induction ps generalizing fb with
  | nil => exact .inl h
  | cons d ps ih =>
    rcases ih h with h | h
    · rcases mem_putKey h with rfl | h
      · exact .inr (List.mem_cons_self ..)
      · exact .inl h
    · exact .inr (List.mem_cons_of_mem _ h)

/-- One bit of a plane, alone (43_ppu_tile_decode.md R111). -/
theorem planeBit_eq (v : Byte) (bit : Nat) : (v >>> bit) &&& 1 = if v.getLsbD bit then 1#8 else 0#8 := by
  apply BitVec.eq_of_getLsbD_eq
  intro i hi
  by_cases h : i = 0
  · subst h
    cases hv : v.getLsbD bit <;> simp [hv]
  · cases hv : v.getLsbD bit <;> simp [h]

/-- The colour index as a number: plane 1 is worth 2, plane 0 is worth 1 (R111). -/
theorem colorIndex_toNat (plane0 plane1 : Byte) (bit : Nat) :
    (colorIndex plane0 plane1 bit).toNat = 2 * (plane1.getLsbD bit).toNat + (plane0.getLsbD bit).toNat := by
  simp only [colorIndex, planeBit_eq]
  cases plane1.getLsbD bit <;> cases plane0.getLsbD bit <;> rfl

/-- A pixel of a decoded tile, by the two bytes of its row (R115). -/
theorem tilePixel_decodeTile {vram : List Host.Cell} {t : Byte} {r c : Nat} (hr : r < 8) (hc : c < 8) :
    tilePixel (decodeTile vram t) r c =
      colorIndex (vramRead vram (tileBase t + 2 * r)) (vramRead vram (tileBase t + 2 * r + 1)) (7 - c) := by
  simp [tilePixel, decodeTile, decodeTileRow, List.getD, hr, hc]

/-- What a frame paints, entry by entry: a pixel of a cell of the map, by the colour index its tile has there. -/
theorem mem_framePaints {c : Config} {vram : List Host.Cell} {pal : List Rgb} {e : Nat × Rgb} :
    e ∈ framePaints c vram pal ↔
      ∃ row < Config.mapRows, ∃ col < Config.mapCols, ∃ r < Config.tileH, ∃ k < Config.tileW,
        paletteLookup pal (tilePixel (decodeTile vram (mapEntry c vram row col)) r k) = some e.2 ∧
        e.1 = pixelKey (row * Config.tileH + r) (col * Config.tileW + k) := by
  obtain ⟨key, rgb⟩ := e
  simp only [framePaints, cellPaints, tileRowPaints, List.mem_flatMap, List.mem_filterMap, List.mem_range, Option.map_eq_some_iff,
    Prod.mk.injEq]
  constructor
  · rintro ⟨row, hrow, col, hcol, r, hr, k, hk, a, ha, h1, rfl⟩
    exact ⟨row, hrow, col, hcol, r, hr, k, hk, ha, h1.symm⟩
  · rintro ⟨row, hrow, col, hcol, r, hr, k, hk, ha, h1⟩
    exact ⟨row, hrow, col, hcol, r, hr, k, hk, rgb, ha, h1.symm, rfl⟩

end Sys2Proof.Machine
end

