-- ==== Sys2Proof/Laws/Step.lean ====
section
/-! SUPPORT. What the host operations, `Execute`, the frame body and the step can do, each said once. -/

namespace Sys2Proof.Machine

/-- A setup operation that answers a next state was invoked while Stopped. -/
theorem whileStopped_next {s t : State} {o : Host.Outcome State Fault Refusal} (h : whileStopped s o = .next t) :
    s.running = false ∧ o = .next t := by
  unfold whileStopped at h
  split at h
  · cases h
  · rename_i hr
    exact ⟨by simpa using hr, h⟩

/-- An argument within its limit, and only such a one, is taken. -/
theorem withinLimit_next {n limit : Nat} {t u : State} (h : withinLimit n limit t = .next u) : n ≤ limit ∧ u = t := by
  unfold withinLimit at h
  split at h
  · exact ⟨‹_›, (Host.Outcome.next.inj h).symm⟩
  · cases h

/-- When a host operation answers a next state, and which (46_host_interface.md). -/
def HostCallLeads (c : Config) (op : HostOp) (s t : State) : Prop :=
  match op with
  | .loadProgram bytes origin => s.running = false ∧ bytes.length ≤ Config.memSize ∧ t = s.writeAll origin bytes
  | .setResetVector address => s.running = false ∧ t = s.writeWord Config.resetVector address
  | .loadTiles bytes => s.running = false ∧ bytes.length ≤ Config.vramSize ∧
      t = s.setVram (Memory.writeBytes s.vram Config.patternBase bytes)
  | .loadTileMap bytes => s.running = false ∧ bytes.length ≤ Config.vramSize - c.tilemapBase ∧
      t = s.setVram (Memory.writeBytes s.vram c.tilemapBase bytes)
  | .setPalette colors => s.running = false ∧ colors.length ≤ c.paletteSize ∧
      t = s.setPal (colors ++ s.pal.drop colors.length)
  | .warmReset => s.running = false ∧ t = s.warmReset
  | .coldReset => t = coldReset c s
  | .start => t = start s
  | .stop => t = s.setRunning false
  | .snapshotRegisters => t = s
  | .disassembleWindow _ _ => t = s
  | .stepFrame => s.running = false ∧ t = if s.halted then s else s.beginFrame .inStepFrame

/-- What a host operation can do, said once: if it answers a next state, it was admitted, and this is that state. -/
theorem hostCall_next {c : Config} {op : HostOp} {s t : State} (h : hostCall c op s = .next t) :
    HostCallLeads c op s t := by
  cases op with
  | loadProgram bytes origin =>
    obtain ⟨hr, h⟩ := whileStopped_next h
    exact ⟨hr, withinLimit_next h⟩
  | setResetVector address =>
    obtain ⟨hr, h⟩ := whileStopped_next h
    exact ⟨hr, (Host.Outcome.next.inj h).symm⟩
  | loadTiles bytes =>
    obtain ⟨hr, h⟩ := whileStopped_next h
    exact ⟨hr, withinLimit_next h⟩
  | loadTileMap bytes =>
    obtain ⟨hr, h⟩ := whileStopped_next h
    exact ⟨hr, withinLimit_next h⟩
  | setPalette colors =>
    obtain ⟨hr, h⟩ := whileStopped_next h
    exact ⟨hr, withinLimit_next h⟩
  | warmReset =>
    obtain ⟨hr, h⟩ := whileStopped_next h
    exact ⟨hr, (Host.Outcome.next.inj h).symm⟩
  | stepFrame =>
    obtain ⟨hr, h⟩ := whileStopped_next h
    exact ⟨hr, (Host.Outcome.next.inj h).symm⟩
  | coldReset => exact (Host.Outcome.next.inj h).symm
  | start => exact (Host.Outcome.next.inj h).symm
  | stop => exact (Host.Outcome.next.inj h).symm
  | snapshotRegisters => exact (Host.Outcome.next.inj h).symm
  | disassembleWindow _ _ => exact (Host.Outcome.next.inj h).symm

/-- What `Execute` can do (40_cpu_execute.md R80, R81): it runs the instruction at PC of a CPU that is not halted, and hands back its
cost. -/
theorem execute_next {s t : State} {n : Nat} (h : execute s = .next (t, n)) :
    s.halted = false ∧ exec s.fetchInstr s = .next t ∧ n = cycleCost s.fetchInstr := by
  unfold execute at h
  split at h
  · cases h
  · rename_i hh
    revert h
    cases he : exec s.fetchInstr s with
    | next u =>
      intro h
      obtain ⟨rfl, rfl⟩ := Prod.mk.inj (Host.Outcome.next.inj h)
      exact ⟨by simpa using hh, rfl, rfl⟩
    | fault f => exact nomatch f
    | refused r => intro h; cases h

/-- What one pass of the budget loop can do (45_frame_scheduler.md R133). -/
theorem loopBody_next {s t : State} (h : loopBody s = .next t) :
    ∃ u, s.halted = false ∧ exec s.fetchInstr s = .next u ∧ t = u.addCycles (cycleCost s.fetchInstr) := by
  unfold loopBody at h
  revert h
  cases he : execute s with
  | next un =>
    obtain ⟨u, n⟩ := un
    intro h
    obtain ⟨hh, hx, rfl⟩ := execute_next he
    exact ⟨u, hh, hx, (Host.Outcome.next.inj h).symm⟩
  | fault f => exact nomatch f
  | refused r => intro h; cases h

/-- What one step inside a frame body can do (R133): an instruction while the budget test holds, else the end of the frame. -/
theorem frameStep_next {c : Config} {s t : State} (h : frameStep c s = .next t) :
    (budgetLeft s = true ∧ loopBody s = .next t) ∨ (budgetLeft s = false ∧ t = finishFrame c s) := by
  unfold frameStep at h
  split at h
  · exact .inl ⟨‹_›, h⟩
  · rename_i hb
    exact .inr ⟨by simpa using hb, (Host.Outcome.next.inj h).symm⟩

/-- What one step between ticks can do (R139, R140). -/
theorem betweenStep_next {c : Config} {s t : State} (h : betweenStep c s = .next t) :
    (s.inputs = [] ∧ t = timerFires s) ∨
    (∃ rest, s.inputs = .timer :: rest ∧ t = timerFires (s.setInputs rest)) ∨
    (∃ op rest, s.inputs = .host op :: rest ∧ hostCall c op (s.setInputs rest) = .next t) := by
  unfold betweenStep at h
  split at h
  · exact .inl ⟨‹_›, (Host.Outcome.next.inj h).symm⟩
  · exact .inr (.inl ⟨_, ‹_›, (Host.Outcome.next.inj h).symm⟩)
  · exact .inr (.inr ⟨_, _, ‹_›, h⟩)

/-- What one step can do, said once: between ticks an input or the timer, inside a frame body an instruction or its end. -/
theorem stepWith_next {c : Config} {s t : State} (h : stepWith c s = .next t) :
    (s.phase = .between ∧ betweenStep c s = .next t) ∨
    ((s.phase = .inTick ∨ s.phase = .inStepFrame) ∧ budgetLeft s = true ∧ loopBody s = .next t) ∨
    ((s.phase = .inTick ∨ s.phase = .inStepFrame) ∧ budgetLeft s = false ∧ t = finishFrame c s) := by
  unfold stepWith at h
  split at h
  · exact .inl ⟨‹_›, h⟩
  · exact .inr ((frameStep_next h).imp (fun h' => ⟨.inl ‹_›, h'⟩) (fun h' => ⟨.inl ‹_›, h'⟩))
  · exact .inr ((frameStep_next h).imp (fun h' => ⟨.inr ‹_›, h'⟩) (fun h' => ⟨.inr ‹_›, h'⟩))

/-- What the end of a frame body does, field by field (R135, R136, R138): one render, one notification, and for a tick the time stamp and,
on a halted CPU, the stop. -/
theorem finishFrame_eq (c : Config) (s : State) :
    finishFrame c s =
      { s with
        fb := renderedFb c s.vram s.pal
        output := s.output ++ [.frame (renderedFb c s.vram s.pal)] ++ [.notify (snapshotRegisters s)]
        phase := .between
        running := if s.phase = .inTick ∧ s.halted = true then false else s.running
        lastTick := if s.phase = .inTick then Config.wallClock s.clockReads else s.lastTick
        clockReads := if s.phase = .inTick then s.clockReads + 1 else s.clockReads } := by
  cases hp : s.phase <;> cases hh : s.halted <;>
    simp [finishFrame, hp, hh, notifyHost, renderFrame, State.setFb, State.emit, State.stampTick, State.setRunning,
      State.closeFrame, snapshotRegisters]

/-- What a whole frame body can do (R133): if it ends, the budget loop ended and then the frame. -/
theorem frameBody_some {c : Config} {fuel : Nat} {phase : Phase} {s t : State} (h : frameBody c fuel phase s = some t) :
    ∃ u, budgetLoop fuel (s.beginFrame phase) = some u ∧ t = finishFrame c u := by
  obtain ⟨u, hu, ht⟩ := Option.map_eq_some_iff.1 h
  exact ⟨u, hu, ht.symm⟩

/-- What the atomic tick can do (R133): Running, it is a frame body. -/
theorem tick_some {c : Config} {fuel : Nat} {s t : State} (h : tick c fuel s = some t) :
    s.running = true ∧ frameBody c fuel .inTick s = some t := by
  unfold tick at h
  split at h
  · exact ⟨‹_›, h⟩
  · cases h

/-- What the atomic `StepFrame` can do (46_host_interface.md R162): Stopped, nothing on a halted CPU, else a frame body. -/
theorem stepFrame_some {c : Config} {fuel : Nat} {s t : State} (h : stepFrame c fuel s = some t) :
    s.running = false ∧
      ((s.halted = true ∧ t = s) ∨ (s.halted = false ∧ frameBody c fuel .inStepFrame s = some t)) := by
  unfold stepFrame at h
  split at h
  · cases h
  · rename_i hr
    refine ⟨by simpa using hr, ?_⟩
    split at h
    · exact .inl ⟨‹_›, (Option.some.inj h).symm⟩
    · rename_i hh
      exact .inr ⟨by simpa using hh, h⟩

/-- The timer begins a tick of a Running scheduler and does nothing else. -/
theorem timerFires_eq (s : State) : timerFires s = if s.running then s.beginFrame .inTick else s := rfl

/-- `Start` sets `running` of a CPU that is not halted and does nothing else (R131). -/
theorem start_eq (s : State) : start s = if s.halted then s else s.setRunning true := rfl

/-- Cold reset, field by field, but for PC when the vector is loaded (70_reset_and_hazards.md R193). -/
theorem coldReset_eq (c : Config) (s : State) :
    coldReset c s =
      { State.powerOn c with
        mem := c.image.mem, vram := c.image.vram, pal := c.image.pal
        inputs := s.inputs, output := s.output, clockReads := s.clockReads
        pc := if c.coldResetLoadsVector then
            joinBytes (Memory.readByte c.image.mem 0xFFFC) (Memory.readByte c.image.mem 0xFFFD) else c.bootPc } := by
  unfold coldReset
  cases c.coldResetLoadsVector <;> rfl

end Sys2Proof.Machine
end

