-- ==== Sys2Proof/Laws/Run.lean ====
section
/-! SUPPORT. Runs step by step, the budget test, and what one pass of the budget loop leaves alone. -/

namespace Sys2Proof.Machine

/-- The budget test (45_frame_scheduler.md R134). -/
theorem budgetLeft_iff {s : State} : budgetLeft s = true ↔ s.frameCycles < 1364 ∧ s.halted = false := by
  simp only [budgetLeft, Config.cycleBudget, Bool.and_eq_true, decide_eq_true_eq, Bool.not_eq_true']

/-- Inside a frame body, with budget left, the step is one pass of the budget loop. -/
theorem stepWith_of_budgetLeft {c : Config} {s : State} (hf : InFrame s) (hb : budgetLeft s = true) :
    stepWith c s = loopBody s := by
  rcases hf with h | h <;> simp [stepWith, h, frameStep, hb]

/-- Inside a frame body, with no budget left, the step is the end of the frame. -/
theorem stepWith_of_budgetSpent {c : Config} {s : State} (hf : InFrame s) (hb : budgetLeft s = false) :
    stepWith c s = .next (finishFrame c s) := by
  rcases hf with h | h <;> simp [stepWith, h, frameStep, hb]

/-- Inside a frame body is not between ticks. -/
theorem InFrame.ne_between {s : State} (h : InFrame s) : s.phase ≠ .between := by
  rcases h with h | h <;> simp [h]

/-- An instruction leaves the cycle counters to its caller (40_cpu_execute.md R85). -/
theorem effectOf_counters (i : Instr) (s : State) :
    (effectOf i s).frameCycles = s.frameCycles ∧ (effectOf i s).totalCycles = s.totalCycles := by
  cases i <;> exact ⟨rfl, rfl⟩

/-- A run of no steps. -/
theorem runSteps_zero (c : Config) (s : State) : runSteps c 0 s = .next s := rfl

/-- A run goes on after a step that answers a next state. -/
theorem runSteps_succ_of_next {c : Config} {n : Nat} {s t : State} (h : stepWith c s = .next t) :
    runSteps c (n + 1) s = runSteps c n t := by
  simp only [runSteps, Host.Core.run, coreWith, h]

/-- A run ends with a step that is refused. -/
theorem runSteps_succ_of_refused {c : Config} {n : Nat} {s : State} {r : Refusal} (h : stepWith c s = .refused r) :
    runSteps c (n + 1) s = .refused r := by
  simp only [runSteps, Host.Core.run, coreWith, h]

/-- A run of `m + n` steps is the first `m` and then `n` more. -/
theorem runSteps_add {c : Config} {m n : Nat} {s t : State} (h : runSteps c m s = .next t) :
    runSteps c (m + n) s = runSteps c n t := by
  induction m generalizing s with
  | zero => cases h; simp
  | succ m ih =>
    rw [Nat.add_right_comm]
    cases hs : stepWith c s with
    | next u =>
      rw [runSteps_succ_of_next hs] at h ⊢
      exact ih h
    | fault f => exact nomatch f
    | refused r => rw [runSteps_succ_of_refused hs] at h; cases h

end Sys2Proof.Machine
end

