-- ==== Sys2Proof/Machine/Assembler.lean ====
section
/-! DEFINITION. The assembler's spelling of each instruction (30_encoding.md R70, R71; decision D29). It is notation: no operation of
the block produces text (R73). -/

namespace Sys2Proof.Machine

/-- A hexadecimal digit (upper case: DESIGN CHOICE, log 24). -/
def hexDigit (n : Nat) : Char :=
  if n < 10 then Char.ofNat (48 + n) else Char.ofNat (55 + n)

/-- Two hexadecimal digits. -/
def hexByte (v : Byte) : List Char := [hexDigit (v.toNat / 16), hexDigit (v.toNat % 16)]

/-- Four hexadecimal digits. -/
def hexAddr (v : Addr) : List Char :=
  [hexDigit (v.toNat / 4096), hexDigit (v.toNat / 256 % 16), hexDigit (v.toNat / 16 % 16), hexDigit (v.toNat % 16)]

/-- The text of an instruction, as characters: `LDA #$42`, `STA $0300`, `JMP $8000` (R70), and `LDA $hhhh`, `NOP`, `BRK`,
`.byte $hh` (R71). -/
def assemblyText : Instr → List Char
  | .ldaImm imm8 => ['L', 'D', 'A', ' ', '#', '$'] ++ hexByte imm8
  | .ldaAbs addr => ['L', 'D', 'A', ' ', '$'] ++ hexAddr addr
  | .staAbs addr => ['S', 'T', 'A', ' ', '$'] ++ hexAddr addr
  | .jmpAbs addr => ['J', 'M', 'P', ' ', '$'] ++ hexAddr addr
  | .nop => ['N', 'O', 'P']
  | .brk => ['B', 'R', 'K']
  | .undef opcode => ['.', 'b', 'y', 't', 'e', ' ', '$'] ++ hexByte opcode

end Sys2Proof.Machine
end

