-- ==== Sys2Proof/Tests/Slice0.lean ====
section
/-! SUPPORT. The package's own tests. Expected results come from 95_test_vectors.md (the vector's name is given) or from the rule
named; the last part shows, for each statement with hypotheses, a concrete state and operands that meet them. -/

namespace Sys2Proof.Tests

open Sys2Proof.Machine

/-! ### Helpers -/

/-- The reset machine with bytes stored at an address and PC there. -/
def loaded (pc : Addr) (bytes : List Byte) : State := { State.reset.writeAll pc bytes with pc := pc }

/-- Inside a tick that has just begun. -/
def ticking (s : State) : State := { s with running := true, phase := .inTick }

/-- PC, A, P, `halted` and the cycles after one `Execute`. -/
def afterExecute (s : State) : Option (Addr × Byte × Byte × Bool × Nat) :=
  match execute s with
  | .next (t, n) => some (t.pc, t.a, t.p, t.halted, n)
  | .fault _ => none
  | .refused _ => none

/-- A byte of `Mem` after one `Execute`. -/
def byteAfterExecute (s : State) (addr : Addr) : Option Byte :=
  match execute s with
  | .next (t, _) => some (t.read addr)
  | .fault _ => none
  | .refused _ => none

/-- The state an outcome leads to, if any. -/
def nextOf (o : Host.Outcome State Fault Refusal) : Option State :=
  match o with
  | .next t => some t
  | .fault _ => none
  | .refused _ => none

/-! ### WellFormed: every check refuses an ill-formed term -/

theorem test_wellFormed_refuses_defined_opcode_as_undefined :
    definedOpcodes.all (fun op => !(Instr.undef op).wellFormed) = true := by decide

theorem test_wellFormed_accepts_undefined_opcode : (Instr.undef 0xFF).wellFormed = true := by decide

theorem test_wellFormed_refuses_tilemap_past_vram :
    Config.admitted { Config.default with tilemapBase := 31873 } = false := by decide

theorem test_wellFormed_accepts_last_tilemap_base :
    Config.admitted { Config.default with tilemapBase := 31872 } = true := by decide

theorem test_wellFormed_refuses_three_colours :
    Config.admitted { Config.default with paletteSize := 3 } = false := by decide

theorem test_wellFormed_refuses_image_byte_outside_mem :
    Config.admitted { Config.default with image := { Config.default.image with mem := [(65536, 1)] } } = false := by decide

theorem test_wellFormed_refuses_image_listing_a_zero :
    Config.admitted { Config.default with image := { Config.default.image with mem := [(3, 0)] } } = false := by decide

theorem test_wellFormed_refuses_image_byte_outside_vram :
    Config.admitted { Config.default with image := { Config.default.image with vram := [(32768, 1)] } } = false := by decide

theorem test_wellFormed_refuses_image_palette_of_another_size :
    Config.admitted { Config.default with image := { Config.default.image with pal := [] } } = false := by decide

theorem test_memory_wf_refuses_unsorted : Memory.wf 65536 [(4, 1), (3, 1)] = false := by decide

/-! ### Decode: the words of 2.1 and the count of R68 -/

theorem test_decode_ldaImm : decode [0xA9, 0x00] = .ok (.ldaImm 0x00, []) := by rfl
theorem test_decode_ldaAbs : decode [0xAD, 0x34, 0x12] = .ok (.ldaAbs 0x1234, []) := by rfl
theorem test_decode_staAbs : decode [0x8D, 0xFF, 0xFF] = .ok (.staAbs 0xFFFF, []) := by rfl
theorem test_decode_jmpAbs : decode [0x4C, 0x00, 0x00] = .ok (.jmpAbs 0x0000, []) := by rfl
theorem test_decode_nop : decode [0xEA] = .ok (.nop, []) := by rfl
theorem test_decode_brk : decode [0x00] = .ok (.brk, []) := by rfl
theorem test_decode_undef : decode [0xFF] = .ok (.undef 0xFF, []) := by rfl

/-- The neighbours of the defined values and the well-known values that 2.1 lists as undefined. -/
theorem test_decode_neighbours_undefined :
    ([0x01, 0x02, 0xA8, 0xAA, 0xAC, 0xAE, 0x8C, 0x8E, 0x4B, 0x4D, 0xE9, 0xEB, 0x6C, 0xA2, 0x20, 0x60] : List Byte).all
      (fun op => decide (decodeInstr op 5 6 = .undef op)) = true := by decide

/-- 256 - 6 = 250 undefined opcode values. -/
theorem test_decode_undefined_count :
    ((List.range 256).filter fun n => !isDefinedOpcode (BitVec.ofNat 8 n)).length = 250 := by decide +kernel

theorem test_decode_rejects_nothing : decode [] = .error .noOpcode := by rfl
theorem test_decode_rejects_missing_immediate : decode [0xA9] = .error (.operandMissing 0xA9) := by rfl
theorem test_decode_rejects_half_address : decode [0x4C, 0x00] = .error (.operandMissing 0x4C) := by rfl

/-- Program 1 of part 3, encoded. -/
theorem test_encode_program1 :
    ([.ldaImm 0x42, .staAbs 0x0300, .brk] : List Instr).flatMap encode = [0xA9, 0x42, 0x8D, 0x00, 0x03, 0x00] := by decide

/-- D0's three spellings (30_encoding.md R70). -/
theorem test_assembly_of_d0_examples :
    String.ofList (assemblyText (.ldaImm 0x42)) = "LDA #$42" ∧ String.ofList (assemblyText (.staAbs 0x0300)) = "STA $0300" ∧
    String.ofList (assemblyText (.jmpAbs 0x8000)) = "JMP $8000" := by decide

/-! ### The instructions, one `Execute` each -/

/-- L1. -/
theorem test_ldaImm_zero : afterExecute { loaded 0x8000 [0xA9, 0x00] with a := 0x55 } =
    some (0x8002, 0x00, 0x02, false, 2) := by decide

/-- Program 5 of part 3, step 1: the operand wraps to 0x0000. With P as in L4. -/
theorem test_ldaImm_wraps : afterExecute { loaded 0xFFFF [0xA9, 0xFF] with p := 0x7D } =
    some (0x0001, 0xFF, 0xFD, false, 2) := by decide

/-- L7. -/
theorem test_ldaAbs_own_opcode : afterExecute (loaded 0x8000 [0xAD, 0x00, 0x80]) =
    some (0x8003, 0xAD, 0x80, false, 4) := by decide

/-- L8. -/
theorem test_ldaAbs_wraps : afterExecute ((loaded 0xFFFE [0xAD, 0x34, 0x12]).write 0x1234 0x99) =
    some (0x0001, 0x99, 0x80, false, 4) := by decide

/-- S2: a store sets no flag. -/
theorem test_staAbs_no_flag :
    afterExecute { (loaded 0x8000 [0x8D, 0x00, 0x03]).write 0x0300 0xFF with p := 0x80 } =
      some (0x8003, 0x00, 0x80, false, 4) ∧
    byteAfterExecute { (loaded 0x8000 [0x8D, 0x00, 0x03]).write 0x0300 0xFF with p := 0x80 } 0x0300 = some 0x00 := by
  decide

/-- S3: a store over its own operand goes to the address as fetched. -/
theorem test_staAbs_own_operand :
    byteAfterExecute { loaded 0x8000 [0x8D, 0x01, 0x80] with a := 0x55 } 0x8001 = some 0x55 ∧
    byteAfterExecute { loaded 0x8000 [0x8D, 0x01, 0x80] with a := 0x55 } 0x8055 = some 0x00 := by decide

/-- J1. -/
theorem test_jmpAbs : afterExecute { loaded 0x8000 [0x4C, 0x00, 0x90] with a := 0x21, p := 0xA5 } =
    some (0x9000, 0x21, 0xA5, false, 3) := by decide

/-- J4. -/
theorem test_jmpAbs_at_top : afterExecute (loaded 0xFFFD [0x4C, 0xCD, 0xAB]) = some (0xABCD, 0x00, 0x00, false, 3) := by decide

/-- N1. -/
theorem test_nop : afterExecute { loaded 0x8000 [0xEA] with a := 0x33, p := 0xFF } =
    some (0x8001, 0x33, 0xFF, false, 2) := by decide

/-- N2. -/
theorem test_nop_wraps : afterExecute (loaded 0xFFFF [0xEA]) = some (0x0000, 0x00, 0x00, false, 2) := by decide

/-- B1. -/
theorem test_brk : afterExecute (loaded 0x8000 [0x00]) = some (0x8001, 0x00, 0x00, true, 7) := by decide

/-- B1, B2: nothing is pushed, and PC wraps. -/
theorem test_brk_pushes_nothing :
    byteAfterExecute { loaded 0xFFFF [0x00] with p := 0x55 } 0x01FF = some 0x00 ∧
    afterExecute { loaded 0xFFFF [0x00] with p := 0x55 } = some (0x0000, 0x00, 0x55, true, 7) := by decide

/-- U1. -/
theorem test_undef : afterExecute { loaded 0x8000 [0xFF] with a := 0x11, p := 0xC3 } =
    some (0x8001, 0x11, 0xC3, false, 0) := by decide

/-- U2: `A2 05` is no load, and takes one byte only. -/
theorem test_undef_takes_no_operand : afterExecute (loaded 0x8000 [0xA2, 0x05]) =
    some (0x8001, 0x00, 0x00, false, 0) := by decide

/-- T1, its sample points. -/
theorem test_updateFlags_samples :
    updateFlags 0x00 0x00 = 0x02 ∧ updateFlags 0x00 0x01 = 0x00 ∧ updateFlags 0x00 0x7F = 0x00 ∧
    updateFlags 0x00 0x80 = 0x80 ∧ updateFlags 0x00 0xFF = 0x80 ∧ updateFlags 0xFF 0x00 = 0x7F ∧
    updateFlags 0xFF 0x01 = 0x7D ∧ updateFlags 0xFF 0x80 = 0xFD ∧ updateFlags 0x6D 0x00 = 0x6F ∧
    updateFlags 0x6F 0x80 = 0xED ∧ updateFlags 0x82 0x42 = 0x00 := by decide

/-! ### The picture unit -/

/-- The table of 2.5. -/
theorem test_decodeTileRow :
    decodeTileRow 0xAA 0x55 = [1, 2, 1, 2, 1, 2, 1, 2] ∧ decodeTileRow 0xF0 0xCC = [3, 3, 1, 1, 2, 2, 0, 0] ∧
    decodeTileRow 0x80 0x01 = [1, 0, 0, 0, 0, 0, 0, 2] ∧ decodeTileRow 0x3C 0x66 = [0, 2, 3, 1, 1, 3, 2, 0] := by decide

/-- 2.6: the two plane bytes of tile 255, row 7. -/
theorem test_tile_address : tileBase 255 + 2 * 7 = 0x0FFE := by decide

/-- 2.7, the last map cell, with tile 1's row 0 as there and row 1 left empty: row 216, columns 248 to 255. -/
theorem test_cell_paints_last_cell :
    cellPaints Config.default [(0x10, 0xAA), (0x11, 0x55), (0x137F, 0x01)] [⟨0, 0, 0⟩, ⟨255, 0, 0⟩, ⟨0, 255, 0⟩, ⟨0, 0, 255⟩] 27 31 =
      (List.range 8).map (fun k => (256 * 216 + 248 + k, if k % 2 = 0 then ⟨255, 0, 0⟩ else ⟨0, 255, 0⟩)) := by decide

/-! ### Host operations and resets -/

/-- H2: a program wraps past 0xFFFF. -/
theorem test_loadProgram_wraps :
    (nextOf (hostCall Config.default (.loadProgram [0x11, 0x22, 0x33] 0xFFFE) State.reset)).map
      (fun t => (t.read 0xFFFE, t.read 0xFFFF, t.read 0x0000, t.pc)) = some (0x11, 0x22, 0x33, 0x8000) := by decide

/-- H6, at the edge of H7: the map's bytes go to `TILEMAP_BASE`. -/
theorem test_loadTileMap :
    (nextOf (hostCall Config.default (.loadTileMap [0x01, 0x02]) State.reset)).map
      (fun t => (vramRead t.vram 0x1000, vramRead t.vram 0x1001, vramRead t.vram 0)) = some (0x01, 0x02, 0x00) := by decide

/-- H8. -/
theorem test_setPalette :
    (nextOf (hostCall Config.default (.setPalette [⟨0, 0, 0⟩, ⟨255, 0, 0⟩]) State.reset)).map (fun t => t.pal) =
      some [⟨0, 0, 0⟩, ⟨255, 0, 0⟩, ⟨0, 0, 0⟩, ⟨0, 0, 0⟩] := by decide

/-- H9. -/
theorem test_setPalette_too_long :
    hostCall Config.default (.setPalette (List.replicate 5 Rgb.black)) State.reset = .refused .argumentTooLong := by rfl

/-- H11, H12, H13: the window, clamped at both ends. -/
theorem test_disassembleWindow :
    disassembleWindow (loaded 0x8000 [0xA9, 0x42, 0x8D, 0x00, 0x03]) 0x8002 2 =
      [(0x8000, 0xA9), (0x8001, 0x42), (0x8002, 0x8D), (0x8003, 0x00), (0x8004, 0x03)] ∧
    (disassembleWindow State.reset 0x0001 3).map (fun e => e.1) = [0, 1, 2, 3, 4] ∧
    (disassembleWindow State.reset 0xFFFF 2).map (fun e => e.1) = [0xFFFD, 0xFFFE, 0xFFFF] := by decide

/-- T8. -/
theorem test_warmReset :
    let s := { State.reset with a := 0x12, x := 0x34, y := 0x56, sp := 0x01F0, p := 0xA5, pc := 0x8123 }.writeWord 0xFFFC 0x9000
    (s.warmReset.pc, s.warmReset.a, s.warmReset.x, s.warmReset.y, s.warmReset.sp, s.warmReset.p) =
      (0x9000, 0x12, 0x34, 0x56, 0x01F0, 0xA5) := by decide

/-- The configuration of Z4: an image that holds a reset vector, which cold reset loads. -/
def vectorConfig : Config :=
  { Config.default with
    coldResetLoadsVector := true
    image := { Config.default.image with mem := [(0x8000, 0xEA), (0xFFFD, 0x90)] } }

/-- Z3, Z4, Z5: what cold reset gives, by the parameter. -/
theorem test_coldReset :
    (coldReset Config.default { loaded 0x8123 [1] with a := 0x42, halted := true, running := true, totalCycles := 13 }).pc = 0x8000 ∧
    (coldReset vectorConfig { loaded 0x8123 [1] with a := 0x42, halted := true, running := true }).pc = 0x9000 ∧
    (coldReset vectorConfig { loaded 0x8123 [1] with a := 0x42, halted := true, running := true }).running = false ∧
    (coldReset vectorConfig { loaded 0x8123 [1] with a := 0x42, halted := true }).read 0x8123 = 0x00 := by decide

/-- 00_scope.md R6, Z1: the default parameters stand in the registers. -/
theorem test_reset_registers :
    (State.reset.pc, State.reset.sp, State.reset.a, State.reset.p, State.reset.halted, State.reset.running) =
      (0x8000, 0x01FF, 0x00, 0x00, false, false) := by decide

/-! ### The step -/

/-- A word placed at the fetch of the reset machine runs at once. -/
theorem test_withFetchWord_runs :
    (nextOf (step (State.reset.withFetchWord 16 0x42A9))).map (fun t => (t.a, t.pc, t.frameCycles, t.totalCycles)) =
      some (0x42, 0x8002, 2, 2) := by decide

/-- K3's last instruction: BRK with 1362 cycles spent brings the frame to 1369. -/
theorem test_step_overshoots_with_brk :
    (nextOf (step { ticking (loaded 0x8000 [0x00]) with frameCycles := 1362 })).map (fun t => (t.frameCycles, t.halted, t.running)) =
      some (1369, true, true) := by decide

/-- The package's machine is the one the default configuration makes. -/
theorem test_core_is_default_machine : coreWith Config.default = Sys2Proof.core := rfl

/-! ### Witnesses: the hypotheses of the statements are met -/

/-- The six defined opcodes, as the statements list them. -/
abbrev sixOpcodes : List Byte := [0x00#8, 0x4C#8, 0x8D#8, 0xA9#8, 0xAD#8, 0xEA#8]

theorem witness_DecoderFollowsOpcodeTable : (0x01 : Byte) ∉ sixOpcodes ∧ (0xFF : Byte) ∉ sixOpcodes := by decide

theorem witness_DecodeOfEncodeIsTheInstruction :
    (Instr.ldaImm 0xFF).wellFormed = true ∧ (Instr.ldaAbs 0xFFFF).wellFormed = true ∧ (Instr.staAbs 0).wellFormed = true ∧
    (Instr.jmpAbs 0x00FF).wellFormed = true ∧ Instr.nop.wellFormed = true ∧ Instr.brk.wellFormed = true ∧
    (Instr.undef 0xFF).wellFormed = true := by decide

theorem witness_EncodeOfDecodeIsTheBytes :
    decode [0x8D, 0x00, 0x03, 0xEA] = .ok (.staAbs 0x0300, [0xEA]) ∧ decode [0x01] = .ok (.undef 0x01, []) := ⟨rfl, rfl⟩

/-- At the top of memory, so that the operand wraps. -/
theorem witness_LdaImmediateLoadsLiteral :
    (loaded 0xFFFF [0xA9, 0x7F]).halted = false ∧ (loaded 0xFFFF [0xA9, 0x7F]).read (loaded 0xFFFF [0xA9, 0x7F]).pc = 0xA9#8 ∧
    (loaded 0xFFFF [0xA9, 0x7F]).read ((loaded 0xFFFF [0xA9, 0x7F]).pc + 1#16) = 0x7F#8 := by decide

theorem witness_LdaAbsoluteLoadsByte :
    (loaded 0xFFFE [0xAD, 0x34, 0x12]).halted = false ∧
    (loaded 0xFFFE [0xAD, 0x34, 0x12]).read (loaded 0xFFFE [0xAD, 0x34, 0x12]).pc = 0xAD#8 ∧
    operandAddress (loaded 0xFFFE [0xAD, 0x34, 0x12]) = 0x1234#16 := by decide

theorem witness_StaAbsoluteStoresAccumulator :
    absoluteAddress 0x0300 ((loaded 0x8000 [0x8D, 0x00, 0x03]).advancePc 3) = 0x0300#16 ∧
    (loaded 0x8000 [0x8D, 0x00, 0x03]).halted = false ∧
    (loaded 0x8000 [0x8D, 0x00, 0x03]).read (loaded 0x8000 [0x8D, 0x00, 0x03]).pc = 0x8D#8 ∧
    operandAddress (loaded 0x8000 [0x8D, 0x00, 0x03]) = 0x0300#16 ∧ (0x0301 : Addr) ≠ 0x0300#16 := by decide

theorem witness_JmpAbsoluteSetsPc :
    (loaded 0xFFFE [0x4C, 0x00, 0x80]).halted = false ∧
    (loaded 0xFFFE [0x4C, 0x00, 0x80]).read (loaded 0xFFFE [0x4C, 0x00, 0x80]).pc = 0x4C#8 ∧
    operandAddress (loaded 0xFFFE [0x4C, 0x00, 0x80]) = 0x8000#16 := by decide

theorem witness_NopOnlyAdvancesPc :
    (loaded 0xFFFF [0xEA]).halted = false ∧ (loaded 0xFFFF [0xEA]).read (loaded 0xFFFF [0xEA]).pc = 0xEA#8 := by decide

theorem witness_BrkHaltsTheCpu :
    (loaded 0xFFFF [0x00]).halted = false ∧ (loaded 0xFFFF [0x00]).read (loaded 0xFFFF [0x00]).pc = 0x00#8 := by decide

theorem witness_UndefinedOpcodeOnlyAdvancesPc :
    (loaded 0xFFFF [0x01]).halted = false ∧ (loaded 0xFFFF [0x01]).read (loaded 0xFFFF [0x01]).pc = 0x01#8 ∧
    (0x01 : Byte) ∉ sixOpcodes := by decide

theorem witness_UpdateFlagsComputesZeroAndNegative :
    (∃ t, exec (.ldaImm 0) State.reset = .next t) ∧ ∃ t, exec (.ldaAbs 0xFFFF) State.reset = .next t := ⟨⟨_, rfl⟩, _, rfl⟩

theorem witness_OnlyLoadsAffectFlags :
    (∃ t, exec (.ldaImm 0) State.reset = .next t) ∧ (∃ t, exec (.ldaAbs 0xFFFF) State.reset = .next t) ∧
    (∃ t, exec (.staAbs 0) State.reset = .next t) ∧ (∃ t, exec (.jmpAbs 0) State.reset = .next t) ∧
    (∃ t, exec .nop State.reset = .next t) ∧ (∃ t, exec .brk State.reset = .next t) ∧
    ∃ t, exec (.undef 0xFF) State.reset = .next t :=
  ⟨⟨_, rfl⟩, ⟨_, rfl⟩, ⟨_, rfl⟩, ⟨_, rfl⟩, ⟨_, rfl⟩, ⟨_, rfl⟩, _, rfl⟩

theorem witness_ExecuteNeverRaises : State.reset.halted = false := rfl

theorem witness_HaltedCpuRefusesExecute : (loaded 0x8000 [0xEA]).halt.halted = true := rfl

/-- A load that changes A and P, a BRK that changes `halted`, a store that changes a byte. -/
theorem witness_ExecuteReachesOnlyItsOwnState :
    (∃ t n, execute (loaded 0x8000 [0xA9, 0x80]) = .next (t, n) ∧ t.a ≠ (loaded 0x8000 [0xA9, 0x80]).a ∧
      t.p ≠ (loaded 0x8000 [0xA9, 0x80]).p) ∧
    (∃ t n, execute (loaded 0x8000 [0x00]) = .next (t, n) ∧ t.halted ≠ (loaded 0x8000 [0x00]).halted) ∧
    ∃ t n, execute { loaded 0x8000 [0x8D, 0xFF, 0xFF] with a := 1 } = .next (t, n) ∧
      t.read 0xFFFF ≠ ({ loaded 0x8000 [0x8D, 0xFF, 0xFF] with a := 1 } : State).read 0xFFFF :=
  ⟨⟨_, _, rfl, by decide, by decide⟩, ⟨_, _, rfl, by decide⟩, _, _, rfl, by decide⟩

/-- A store into each of the three bytes after it. -/
theorem witness_StoreIsSeenByNextFetch : ∀ k, k < 3 →
    (loaded 0x8000 [0x8D, BitVec.ofNat 8 (3 + k), 0x80]).halted = false ∧
    (loaded 0x8000 [0x8D, BitVec.ofNat 8 (3 + k), 0x80]).read 0x8000 = 0x8D#8 ∧
    operandAddress (loaded 0x8000 [0x8D, BitVec.ofNat 8 (3 + k), 0x80]) = 0x8000 + BitVec.ofNat 16 (3 + k) := by decide

theorem witness_WordsAreLittleEndian : (0xFFFE : Addr) ≠ 0xFFFF ∧ (0xFFFE : Addr) ≠ 0xFFFF + 1#16 := by decide

theorem witness_CanonicalMemoriesWithEqualBytesAreEqual :
    Memory.wf 65536 [(0, 1), (65535, 2)] = true ∧
    ∀ k, Memory.readByte [(0, 1), (65535, 2)] k = Memory.readByte [(0, 1), (65535, 2)] k := ⟨by decide, fun _ => rfl⟩

/-- With one cycle of the budget left, in a tick and in a `StepFrame`. -/
theorem witness_StepRunsDecodedInstruction :
    let s := { ticking (loaded 0xFFFE [0xAD, 0x34, 0x12]) with frameCycles := 1363 }
    let u := { s with phase := .inStepFrame, running := false }
    InFrame s ∧ InFrame u ∧ s.frameCycles < 1364 ∧ s.halted = false ∧ decode s.fetchBytes = .ok (.ldaAbs 0x1234, []) ∧
      decode u.fetchBytes = .ok (.ldaAbs 0x1234, []) :=
  ⟨.inl rfl, .inr rfl, by decide, rfl, rfl, rfl⟩

/-- One state for each of the five clauses. -/
theorem witness_TicksBeginOnlyWhileRunning :
    (State.reset.phase = .between ∧ State.reset.inputs = [] ∧ State.reset.running = false) ∧
    (State.reset.setRunning true).running = true ∧
    (State.reset.setInputs [.timer]).inputs = .timer :: [] ∧ ((State.reset.setRunning true).setInputs [.timer]).running = true ∧
    (State.reset.setInputs [.host .start, .timer]).inputs = .host .start :: [.timer] := by decide

/-- On the budget and on the halt, in a tick and in a `StepFrame`. -/
theorem witness_FrameEndsWithOneRenderAndOneNotification :
    (InFrame { ticking State.reset with frameCycles := 1364 } ∧ ({ ticking State.reset with frameCycles := 1364 } : State).phase = .inTick) ∧
    (InFrame (ticking State.reset.halt) ∧ (ticking State.reset.halt).halted = true) ∧
    InFrame { State.reset.halt with phase := .inStepFrame } := ⟨⟨.inl rfl, rfl⟩, ⟨.inl rfl, rfl⟩, .inr rfl⟩

/-- Program 1 of part 3 as a tick of three instructions, the last one BRK. -/
def program1 : State := (loaded 0x8000 [0xA9, 0x42, 0x8D, 0x00, 0x03, 0x00]).setRunning true

/-- A step that ends a frame, one that does not, and a tick that ends. -/
theorem witness_EachTickEmitsOneFrameThenOneNotify :
    (∃ t, stepWith Config.default (ticking State.reset.halt) = .next t ∧ t.phase = .between) ∧
    (∃ t, stepWith Config.default (ticking State.reset) = .next t ∧ t.phase = .inTick) ∧
    ∃ t, tick Config.default 3 program1 = some t := ⟨⟨_, rfl, rfl⟩, ⟨_, rfl, rfl⟩, _, rfl⟩

theorem witness_HostActsOnlyBetweenTicks :
    InFrame (ticking (State.reset.setInputs [.host .stop])) ∧
    ∃ t, stepWith Config.default (ticking (State.reset.setInputs [.host .stop])) = .next t := ⟨.inl rfl, _, rfl⟩

/-- Every byte of a stretch of memory holding one value reads as it. -/
theorem lookup_filled (v : Byte) (n start k : Nat) (h : start ≤ k ∧ k < start + n) :
    lookup ((List.range' start n).map fun i => (i, v)) k = some v := by
  induction n generalizing start with
  | zero => omega
  | succ n ih =>
    rw [List.range'_succ, List.map_cons, lookup]
    split
    · rfl
    · rename_i hne
      simp only at hne
      exact ih (start + 1) (by omega)

/-- K8: all 65536 bytes 0xFF. -/
def allUndefined : State := { State.reset with mem := (List.range' 0 65536).map fun i => (i, 0xFF) }

/-- Every byte of it reads as 0xFF. -/
theorem read_allUndefined (pc : Addr) (n : Nat) (ph : Phase) (r : Bool) (b : Addr) :
    ({ allUndefined with pc := pc, frameCycles := n, phase := ph, running := r } : State).read b = 0xFF := by
  have hb := b.isLt
  show (lookup ((List.range' 0 65536).map fun i => (i, (0xFF : Byte))) b.toNat).getD Memory.unlisted = 0xFF
  rw [lookup_filled _ _ _ _ ⟨Nat.zero_le _, by omega⟩]
  rfl

/-- K8: its budget loop never ends, in a tick and in a `StepFrame`. -/
theorem allUndefined_loop_never_ends (fuel : Nat) (pc : Addr) (ph : Phase) (r : Bool) :
    budgetLoop fuel { allUndefined with pc := pc, phase := ph, running := r, frameCycles := 0 } = none := by
  induction fuel generalizing pc with
  | zero => rfl
  | succ fuel ih =>
    have hf : ({ allUndefined with pc := pc, phase := ph, running := r, frameCycles := 0 } : State).fetchInstr = .undef 0xFF := by
      unfold State.fetchInstr
      rw [read_allUndefined]
      rfl
    have hl : loopBody { allUndefined with pc := pc, phase := ph, running := r, frameCycles := 0 } =
        .next { allUndefined with pc := pc + 1#16, phase := ph, running := r, frameCycles := 0 } := by
      unfold loopBody execute
      rw [hf]
      rfl
    have hb : budgetLeft { allUndefined with pc := pc, phase := ph, running := r, frameCycles := 0 } = true := rfl
    rw [budgetLoop, if_pos hb, hl]
    exact ih _

/-- K8 as a tick. -/
theorem allUndefined_never_ends (fuel : Nat) (pc : Addr) :
    budgetLoop fuel { allUndefined with pc := pc, phase := .inTick, running := true, frameCycles := 0 } = none :=
  allUndefined_loop_never_ends fuel pc .inTick true

/-- A tick that ends, and one that never does (K8). -/
theorem witness_StepsRefineTheAtomicTick :
    (program1.phase = .between ∧ program1.inputs = [] ∧ program1.running = true ∧ ∃ t, tick Config.default 3 program1 = some t) ∧
    (allUndefined.setRunning true).phase = .between ∧ (allUndefined.setRunning true).inputs = [] ∧
    (allUndefined.setRunning true).running = true ∧ ∀ fuel, tick Config.default fuel (allUndefined.setRunning true) = none := by
  refine ⟨⟨rfl, rfl, rfl, _, rfl⟩, rfl, rfl, rfl, fun fuel => ?_⟩
  exact congrArg (Option.map (finishFrame Config.default)) (allUndefined_never_ends fuel _)

/-- A timer's tick that ends with another input left, and one that never does. -/
theorem witness_TimerTicksRefineTheAtomicTick :
    ((program1.setInputs [.timer, .host .stop]).inputs = .timer :: [.host .stop] ∧ program1.phase = .between ∧
      program1.running = true ∧ ∃ t, tick Config.default 3 (program1.setInputs [.host .stop]) = some t) ∧
    ∀ fuel, tick Config.default fuel (allUndefined.setRunning true) = none :=
  ⟨⟨rfl, rfl, rfl, _, rfl⟩, fun fuel => congrArg (Option.map (finishFrame Config.default)) (allUndefined_never_ends fuel _)⟩

/-- K8 as a `StepFrame`: its budget loop never ends either. -/
theorem allUndefined_stepFrame_never_ends (fuel : Nat) : stepFrame Config.default fuel allUndefined = none :=
  congrArg (Option.map (finishFrame Config.default)) (allUndefined_loop_never_ends fuel _ .inStepFrame false)

/-- A `StepFrame` on a halted CPU, one that ends, and one that never does. -/
theorem witness_StepsRefineTheAtomicStepFrame :
    (State.reset.halt.phase = .between ∧ (State.reset.halt.setInputs [.host .stepFrame]).inputs = .host .stepFrame :: [] ∧
      State.reset.halt.running = false ∧ State.reset.halt.halted = true) ∧
    ((program1.setRunning false).running = false ∧ ∃ t, stepFrame Config.default 3 (program1.setRunning false) = some t) ∧
    ∀ fuel, stepFrame Config.default fuel allUndefined = none :=
  ⟨⟨rfl, rfl, rfl, rfl⟩, ⟨rfl, _, rfl⟩, allUndefined_stepFrame_never_ends⟩

/-- Program 1 of part 3 as one `StepFrame`: 13 cycles, and the scheduler stays Stopped (H15, R162). -/
theorem test_stepFrame_program1 :
    (stepFrame Config.default 3 (program1.setRunning false)).map (fun t => (t.frameCycles, t.halted, t.running, t.phase, t.pc)) =
      some (13, true, false, .between, 0x8006) := by rfl

/-- Both sides of the equivalence hold of K8's memory. -/
theorem witness_TickHangsExactlyOnUndefinedMemory :
    (∀ fuel, budgetLoop fuel ((allUndefined.setRunning true).beginFrame .inTick) = none) ∧
    loopAfter 0 allUndefined = some allUndefined ∧ allUndefined.frameCycles < 1364 ∧ allUndefined.halted = false ∧
    ∀ b : Addr, allUndefined.read b ∉ sixOpcodes := by
  refine ⟨fun fuel => allUndefined_never_ends fuel _, rfl, by decide, rfl, fun b => ?_⟩
  have h : allUndefined.read b = 0xFF := read_allUndefined allUndefined.pc 0 .between false b
  rw [h]
  decide

/-- K2 after `n` of its jumps to itself. -/
def selfJump (n : Nat) : State :=
  { (loaded 0x8000 [0x4C, 0x00, 0x80]) with running := true, phase := .inTick, frameCycles := 3 * n, totalCycles := 3 * n }

/-- K2: the loop ends after 455 jumps. -/
theorem selfJump_ends (m n : Nat) (h : n + m = 455) : budgetLoop m (selfJump n) = some (selfJump 455) := by
  induction m generalizing n with
  | zero => obtain rfl : n = 455 := by omega
            rfl
  | succ m ih =>
    have hb : budgetLeft (selfJump n) = true := budgetLeft_iff.2 ⟨by show 3 * n < 1364; omega, rfl⟩
    have h0 : (loaded 0x8000 [0x4C, 0x00, 0x80]).fetchInstr = .jmpAbs 0x8000 := by decide
    have hf : (selfJump n).fetchInstr = .jmpAbs 0x8000 := Eq.trans rfl h0
    have hl : loopBody (selfJump n) = .next (selfJump (n + 1)) := by
      unfold loopBody execute
      rw [hf]
      rfl
    rw [budgetLoop, if_pos hb, hl]
    exact ih (n + 1) (by omega)

/-- K2: its tick, with 1365 cycles. -/
theorem test_tick_self_jump :
    tick Config.default 455 ((loaded 0x8000 [0x4C, 0x00, 0x80]).setRunning true) = some (finishFrame Config.default (selfJump 455)) := by
  have h0 : ((loaded 0x8000 [0x4C, 0x00, 0x80]).setRunning true).beginFrame .inTick = selfJump 0 := rfl
  unfold tick frameBody
  rw [if_pos (by rfl), h0, selfJump_ends 455 0 rfl]
  rfl

/-- A tick that ends on the budget (K2) and one that halts (program 1). -/
theorem witness_FinishedTickCyclesAreBounded :
    (∃ t, tick Config.default 455 ((loaded 0x8000 [0x4C, 0x00, 0x80]).setRunning true) = some t ∧ t.halted = false) ∧
    program1.halted = false ∧ ∃ t, tick Config.default 3 program1 = some t ∧ t.halted = true :=
  ⟨⟨_, test_tick_self_jump, rfl⟩, rfl, _, rfl, rfl⟩

theorem witness_RunsWithoutHostInputsAreSafe : State.reset.inputs = [] := rfl

/-- A start, a stop, a cold reset, the end of a tick on a halted CPU, and a tick that begins. -/
theorem witness_RunningChangesOnlyByItsFourCauses :
    (HostInvokes .start (State.reset.setInputs [.host .start]) ∧
      ∃ t, stepWith Config.default (State.reset.setInputs [.host .start]) = .next t ∧ t.running = true) ∧
    (HostInvokes .stop ((State.reset.setRunning true).setInputs [.host .stop]) ∧
      ∃ t, stepWith Config.default ((State.reset.setRunning true).setInputs [.host .stop]) = .next t ∧ t.running = false) ∧
    (HostInvokes .coldReset ((State.reset.setRunning true).setInputs [.host .coldReset]) ∧
      ∃ t, stepWith Config.default ((State.reset.setRunning true).setInputs [.host .coldReset]) = .next t ∧ t.running = false) ∧
    ((ticking State.reset.halt).phase = .inTick ∧ (ticking State.reset.halt).halted = true ∧ (ticking State.reset.halt).running = true ∧
      ∃ t, stepWith Config.default (ticking State.reset.halt) = .next t ∧ t.running = false) ∧
    ∃ t, stepWith Config.default (State.reset.setRunning true) = .next t ∧ t.phase = .inTick :=
  ⟨⟨⟨rfl, rfl⟩, _, rfl, rfl⟩, ⟨⟨rfl, rfl⟩, _, rfl, rfl⟩, ⟨⟨rfl, rfl⟩, _, rfl, rfl⟩, ⟨rfl, rfl, rfl, _, rfl, rfl⟩, _, rfl, rfl⟩

/-- A BRK with one cycle of the budget left, and a cold reset of a halted CPU. -/
theorem witness_HaltedChangesOnlyByBrkAndColdReset :
    (∃ t, stepWith Config.default { ticking (loaded 0x8000 [0x00]) with frameCycles := 1363 } = .next t ∧ t.halted = true) ∧
    (HostInvokes .coldReset (State.reset.halt.setInputs [.host .coldReset]) ∧
      ∃ t, stepWith Config.default (State.reset.halt.setInputs [.host .coldReset]) = .next t ∧ t.halted = false) :=
  ⟨⟨_, rfl, rfl⟩, ⟨rfl, rfl⟩, _, rfl, rfl⟩

/-- A load on the reset machine, whose registers are at their power-on values. -/
theorem witness_UnusedRegistersKeepTheirPowerOnValues :
    KeepsPowerOnRegisters Config.default (ticking (loaded 0x8000 [0xA9, 0x80])) ∧
    ∃ t, stepWith Config.default (ticking (loaded 0x8000 [0xA9, 0x80])) = .next t ∧ t.p = 0x80 :=
  ⟨⟨rfl, rfl, rfl, fun _ _ _ => rfl⟩, _, rfl, rfl⟩

/-- The invariant at a state inside a tick, a store about to be made. -/
theorem inv_storing : Inv Config.default { ticking (loaded 0x8000 [0x8D, 0x00, 0x03]) with a := 0x42, frameCycles := 1363, totalCycles := 1363 } where
  memCanonical := by decide
  vramCanonical := rfl
  palSize := rfl
  fbCanonical := rfl
  fbInside := by decide
  tickRuns := fun _ => rfl
  stepFrameStopped := fun h => nomatch h
  haltStops := fun h => nomatch h
  frameBound := by decide
  frameBoundGoing := by decide
  framesCounted := by decide
  eventsPaired := rfl
  fbShown := .inl rfl

theorem witness_EveryStepKeepsTheInvariant :
    Config.default.admitted = true ∧
    Inv Config.default { ticking (loaded 0x8000 [0x8D, 0x00, 0x03]) with a := 0x42, frameCycles := 1363, totalCycles := 1363 } ∧
    ∃ t, step { ticking (loaded 0x8000 [0x8D, 0x00, 0x03]) with a := 0x42, frameCycles := 1363, totalCycles := 1363 } = .next t :=
  ⟨by decide, inv_storing, _, rfl⟩

theorem witness_TileDecodesFromItsSixteenBytes : (7 : Nat) < 8 ∧ (0 : Nat) < 8 := by decide

/-- Two palettes that differ in entry 0 and in entry 4 only. -/
theorem witness_PaletteEntryZeroIsTransparent :
    (3 : BitVec 2) ≠ 0 ∧
    ([⟨0, 0, 0⟩, ⟨1, 0, 0⟩, ⟨2, 0, 0⟩, ⟨3, 0, 0⟩] : List Rgb) ≠ [⟨9, 9, 9⟩, ⟨1, 0, 0⟩, ⟨2, 0, 0⟩, ⟨3, 0, 0⟩, ⟨4, 0, 0⟩] ∧
    ([⟨0, 0, 0⟩, ⟨1, 0, 0⟩, ⟨2, 0, 0⟩, ⟨3, 0, 0⟩] : List Rgb)[1]? = ([⟨9, 9, 9⟩, ⟨1, 0, 0⟩, ⟨2, 0, 0⟩, ⟨3, 0, 0⟩, ⟨4, 0, 0⟩] : List Rgb)[1]? ∧
    ([⟨0, 0, 0⟩, ⟨1, 0, 0⟩, ⟨2, 0, 0⟩, ⟨3, 0, 0⟩] : List Rgb)[2]? = ([⟨9, 9, 9⟩, ⟨1, 0, 0⟩, ⟨2, 0, 0⟩, ⟨3, 0, 0⟩, ⟨4, 0, 0⟩] : List Rgb)[2]? ∧
    ([⟨0, 0, 0⟩, ⟨1, 0, 0⟩, ⟨2, 0, 0⟩, ⟨3, 0, 0⟩] : List Rgb)[3]? = ([⟨9, 9, 9⟩, ⟨1, 0, 0⟩, ⟨2, 0, 0⟩, ⟨3, 0, 0⟩, ⟨4, 0, 0⟩] : List Rgb)[3]? := by
  decide

theorem witness_RenderedFrameHasTheClosedForm : (223 : Nat) < 224 ∧ (255 : Nat) < 256 := by decide

/-- Another state with another byte of `Vram` that the rasterizer does not read, the last one before the map. -/
theorem witness_RenderWritesOnlyTheFramebuffer :
    vramRead [(0x2000, 7)] 0x2000 ≠ vramRead State.reset.vram 0x2000 ∧
    ∀ off, RasterizerReads Config.default off → vramRead [(0x2000, 7)] off = vramRead State.reset.vram off := by
  refine ⟨by decide, fun off h => ?_⟩
  have hne : (0x2000 : Nat) ≠ off := by
    rcases h with h | ⟨-, h⟩
    · omega
    · simp only [Config.default] at h
      omega
  simp [vramRead, Memory.readByte, lookup, hne, State.reset, State.powerOn]

/-- Both bounds of the refusal, and the last cell of an admitted map at the end of `Vram`. -/
theorem witness_AdmittedConfigurationsRenderInRange :
    ({ Config.default with paletteSize := 3 } : Config).paletteSize < 4 ∧
    31872 < ({ Config.default with tilemapBase := 31873 } : Config).tilemapBase ∧
    ({ Config.default with tilemapBase := 31872 } : Config).admitted = true ∧ (27 : Nat) < 28 ∧ (31 : Nat) < 32 ∧
    Inv Config.default { ticking (loaded 0x8000 [0x8D, 0x00, 0x03]) with a := 0x42, frameCycles := 1363, totalCycles := 1363 } :=
  ⟨by decide, by decide, by decide, by decide, by decide, inv_storing⟩

theorem witness_EveryFrameOfAnUninterruptedRunIsIdentical :
    (State.reset.setRunning true).inputs = [] ∧ ∃ t, runSteps Config.default 3 (State.reset.setRunning true) = .next t ∧
      t.output.length = 2 := ⟨rfl, _, rfl, rfl⟩

/-- With two firings of the timer pending: the end of a frame, which emits. -/
theorem witness_TimerOnlyStepsKeepThePicture :
    (∀ i ∈ (ticking (State.reset.halt.setInputs [.timer, .timer])).inputs, i = .timer) ∧
    ∃ t, stepWith Config.default (ticking (State.reset.halt.setInputs [.timer, .timer])) = .next t ∧ t.output.length = 2 :=
  ⟨by decide, _, rfl, rfl⟩

/-- Three bytes across the top of memory, a byte outside them, and a sequence that is one byte too long. -/
theorem witness_LoadProgramStoresItsBytes :
    State.reset.running = false ∧ ([0x11, 0x22, 0x33] : List Byte).length ≤ 65536 ∧
    ([0x11, 0x22, 0x33] : List Byte)[2]? = some 0x33 ∧ ([0x11, 0x22, 0x33] : List Byte).length ≤ ((0x0001 : Addr) - 0xFFFE).toNat ∧
    65536 < (List.replicate 65537 (0 : Byte)).length := by
  refine ⟨rfl, by decide, rfl, by decide, ?_⟩
  rw [List.length_replicate]
  decide

theorem witness_SetResetVectorStoresTheVector :
    State.reset.running = false ∧ (0xFFFB : Addr) ≠ 0xFFFC ∧ (0xFFFB : Addr) ≠ 0xFFFD := by decide

/-- One byte at the end of `Vram` and one past it, for both loaders. -/
theorem witness_TileLoadersStoreTheirBytes :
    State.reset.running = false ∧ (List.replicate 32768 (1 : Byte)).length ≤ 32768 ∧
    (List.replicate 32768 (1 : Byte))[32767]? = some 1 ∧ 32768 < (List.replicate 32769 (1 : Byte)).length ∧
    Config.default.tilemapBase + (List.replicate 28672 (1 : Byte)).length ≤ 32768 ∧ Config.default.admitted = true ∧
    32768 < Config.default.tilemapBase + (List.replicate 28673 (1 : Byte)).length := by
  simp only [List.length_replicate, List.getElem?_replicate]
  decide

/-- As many colours as there are entries, and one more. -/
theorem witness_SetPaletteStoresFromEntryZero :
    State.reset.running = false ∧ (List.replicate 4 (⟨1, 2, 3⟩ : Rgb)).length ≤ Config.default.paletteSize ∧
    (List.replicate 4 (⟨1, 2, 3⟩ : Rgb))[3]? = some ⟨1, 2, 3⟩ ∧ Config.default.paletteSize < (List.replicate 5 (⟨1, 2, 3⟩ : Rgb)).length := by
  decide

theorem witness_SetupOperationsAreRefusedWhileRunning : (State.reset.setRunning true).running = true := rfl

/-- Stopped, halted and not halted. -/
theorem witness_StartStopAndStepFrame :
    State.reset.halted = false ∧ State.reset.running = false ∧ State.reset.halt.halted = true ∧ State.reset.halt.running = false := by
  decide

theorem witness_WarmResetLoadsPcFromTheVector : State.reset.halt.running = false := rfl

theorem witness_PowerOnSetsEveryElement : Rgb.black ∈ (State.powerOn Config.default).pal := by decide

theorem witness_ColdResetRebuildsFromTheImage :
    Config.default.coldResetLoadsVector = false ∧ vectorConfig.coldResetLoadsVector = true ∧ vectorConfig.admitted = true := by decide

/-- A sequence of all five loaders. -/
theorem witness_LoaderSequencesMakeAdmittedImages :
    Config.default.tilemapFits = true ∧ Config.default.paletteLargeEnough = true ∧
    ∃ image, imageOf Config.default
      [.loadProgram [0xEA] 0x9000, .setResetVector 0x9000, .loadTiles [0xAA, 0x55], .loadTileMap [0x01], .setPalette [Rgb.black]] =
        some image := ⟨by decide, by decide, _, rfl⟩

/-- An address at the edge of a window. -/
theorem witness_ReadBacksShowRegistersAndMemory :
    ((0xFFFF : Addr).toNat, (0x00 : Byte)) ∈ disassembleWindow State.reset 0xFFFE 1 := by decide

end Sys2Proof.Tests
end

section
/-! PROOF. The flags of P and who affects them (10_state.md R21, R22). -/

namespace Sys2Proof.Machine

/-- A byte write leaves P. -/
@[simp] theorem State.write_p (s : State) (addr : Addr) (v : Byte) : (s.write addr v).p = s.p := rfl

/-- The flag update sets Z and N from the value and keeps the six storage bits (40_cpu_execute.md R82). -/
theorem flagsSetFrom_updateFlags (p v : Byte) : FlagsSetFrom v p (updateFlags p v) where
  zero := by rw [getLsbD_updateFlags, if_pos rfl]
  negative := by rw [getLsbD_updateFlags, if_neg (by decide), if_pos rfl]
  rest := fun i hz hn => by rw [getLsbD_updateFlags, if_neg hz, if_neg hn]

/-- Settles O13: by the inversion lemma for `exec`, a load's P is the flag update for its value, and no other update named in an
instruction's effect, nor the warm reset's, is one of P. -/
theorem onlyLoadsAffectFlags : Obligations.OnlyLoadsAffectFlags := by
  unfold Obligations.OnlyLoadsAffectFlags
  refine ⟨fun i s t h => ?_, fun s => by simp⟩
  obtain rfl := exec_next h
  cases i with
  | ldaImm imm8 => simpa [effectOf] using flagsSetFrom_updateFlags s.p imm8
  | ldaAbs addr => simpa [effectOf] using flagsSetFrom_updateFlags s.p (s.read addr)
  | staAbs addr => simp [effectOf]
  | jmpAbs addr => simp [effectOf]
  | nop => simp [effectOf]
  | brk => simp [effectOf]
  | undef opcode => simp [effectOf]

end Sys2Proof.Machine
end

section
/-! PROOF. The decoder, one equation per format (30_encoding.md R61), and the table it follows (R62, R64, R66). -/

namespace Sys2Proof.Machine

/-- An opcode of the implied format takes no operand byte. -/
theorem decode_of_imp {op : Byte} (h : formatOf op = .imp) (rest : List Byte) :
    decode (op :: rest) = .ok (decodeInstr op 0 0, rest) := by
  simp only [decode, h]

/-- An opcode of the immediate format takes the one byte after it. -/
theorem decode_of_imm {op : Byte} (h : formatOf op = .imm) (b1 : Byte) (rest : List Byte) :
    decode (op :: b1 :: rest) = .ok (decodeInstr op b1 0, rest) := by
  simp only [decode, h]

/-- An opcode of the absolute format takes the two bytes after it. -/
theorem decode_of_abs {op : Byte} (h : formatOf op = .abs) (b1 b2 : Byte) (rest : List Byte) :
    decode (op :: b1 :: b2 :: rest) = .ok (decodeInstr op b1 b2, rest) := by
  simp only [decode, h]

/-- An opcode outside the table has the implied format (30_encoding.md R62, R68). -/
theorem formatOf_undefined {op : Byte} (h : op ∉ definedOpcodes) : formatOf op = .imp := by
  simp only [definedOpcodes, List.mem_cons, not_or] at h
  obtain ⟨hldaImm, hldaAbs, hsta, hjmp, -⟩ := h
  rw [formatOf, if_neg hldaImm, if_neg hldaAbs, if_neg hsta, if_neg hjmp]

/-- An opcode outside the table selects the undefined row, whatever bytes follow it (30_encoding.md R62, R66). -/
theorem decodeInstr_undefined {op : Byte} (h : op ∉ definedOpcodes) (b1 b2 : Byte) : decodeInstr op b1 b2 = .undef op := by
  simp only [definedOpcodes, List.mem_cons, not_or] at h
  obtain ⟨hldaImm, hldaAbs, hsta, hjmp, hnop, hbrk, -⟩ := h
  rw [decodeInstr, if_neg hldaImm, if_neg hldaAbs, if_neg hsta, if_neg hjmp, if_neg hnop, if_neg hbrk]

/-- Settles O1: each defined opcode by the equation of its format and its row, every other by the two facts about undefined opcodes. -/
theorem decoderFollowsOpcodeTable : Obligations.DecoderFollowsOpcodeTable := by
  unfold Obligations.DecoderFollowsOpcodeTable
  intro b1 b2 rest
  simp only [← joinBytes_eq_addressOf]
  refine ⟨?ldaImm, ?ldaAbs, ?staAbs, ?jmpAbs, ?nop, ?brk, ?undef⟩
  case ldaImm => exact decode_of_imm rfl b1 rest
  case ldaAbs => exact decode_of_abs rfl b1 b2 rest
  case staAbs => exact decode_of_abs rfl b1 b2 rest
  case jmpAbs => exact decode_of_abs rfl b1 b2 rest
  case nop => exact decode_of_imp rfl rest
  case brk => exact decode_of_imp rfl rest
  case undef =>
    intro op h
    have hlist : definedOpcodes.Perm [0x00#8, 0x4C#8, 0x8D#8, 0xA9#8, 0xAD#8, 0xEA#8] := by decide
    have hundef : op ∉ definedOpcodes := mt hlist.mem_iff.1 h
    rw [decode_of_imp (formatOf_undefined hundef), decodeInstr_undefined hundef]

end Sys2Proof.Machine
end

section
/-! PROOF. `Execute` as a total operation (40_cpu_execute.md R80, R84) and the flag update as one expression (R82). -/

namespace Sys2Proof.Machine

/-- Every instruction has its effect as its one outcome (40_cpu_execute.md R84): the converse of `exec_next`. -/
theorem exec_eq_next_effectOf (i : Instr) (s : State) : exec i s = .next (effectOf i s) := by
  cases i <;> rfl

/-- `Execute` on a CPU that is not halted (40_cpu_execute.md R80): the effect of the instruction at PC, and its row's cost. -/
theorem execute_of_not_halted {s : State} (h : s.halted = false) :
    execute s = .next (effectOf s.fetchInstr s, cycleCost s.fetchInstr) := by
  simp [execute, h, exec_eq_next_effectOf]

/-- The costs of the opcode table (30_encoding.md R64). -/
theorem cycleCost_mem (i : Instr) : cycleCost i ∈ [0, 2, 3, 4, 7] := by
  cases i <;> simp [cycleCost]

/-- Settles O14: the effect and the cost of the instruction at PC are the answer, whatever that instruction is. -/
theorem executeNeverRaises : Obligations.ExecuteNeverRaises := by
  unfold Obligations.ExecuteNeverRaises
  intro s hgoing
  exact ⟨_, _, execute_of_not_halted hgoing, cycleCost_mem s.fetchInstr⟩

/-- Keeping bit 7 of a byte gives the mask of Negative or nothing. -/
theorem and_negativeMask (v : Byte) : v &&& 0x80 = if v.getLsbD 7 then 0x80 else 0x00 :=
  BitVec.and_twoPow v 7

/-- The flag update as the one expression of 40_cpu_execute.md R82: the storage bits of P, then Z, then N. -/
theorem updateFlags_eq_or (p v : Byte) :
    updateFlags p v = (p &&& 0x7D) ||| (if v = 0 then 0x02 else 0x00) ||| (v &&& 0x80) := by
  have hkept : ~~~(zMask ||| nMask) = 0x7D#8 := by decide
  have hzero : zMask = 0x02#8 := by decide
  have hnegative : nMask = 0x80#8 := by decide
  rw [updateFlags, hkept, hzero, hnegative, and_negativeMask]
  simp only [BitVec.ofNat_eq_ofNat]
  split_ifs <;> simp

/-- Settles O12: the bits are `flagsSetFrom_updateFlags`, the expression is `updateFlags_eq_or`; by the inversion lemma for `exec`, a
load's P is the update for its new A, and no other instruction's effect names P. -/
theorem updateFlagsComputesZeroAndNegative : Obligations.UpdateFlagsComputesZeroAndNegative := by
  unfold Obligations.UpdateFlagsComputesZeroAndNegative
  refine ⟨fun p v => ⟨flagsSetFrom_updateFlags p v, updateFlags_eq_or p v⟩, fun i s t h => ?_⟩
  obtain rfl := exec_next h
  cases i with
  | ldaImm imm8 => simp [effectOf]
  | ldaAbs addr => simp [effectOf]
  | staAbs addr => simp [effectOf]
  | jmpAbs addr => simp [effectOf]
  | nop => simp [effectOf]
  | brk => simp [effectOf]
  | undef opcode => simp [effectOf]

end Sys2Proof.Machine
end

section
/-! PROOF. The load and store family (41_cpu_load_store.md): the fetch of each of its rows, the frame every instruction has, and the
three instructions. -/

namespace Sys2Proof.Machine

/-- The opcode 0xA9 at PC fetches LDA #imm with the byte after it (30_encoding.md R63, R64). -/
theorem fetchInstr_of_ldaImm {s : State} (h : s.read s.pc = 0xA9#8) : s.fetchInstr = .ldaImm (s.read (s.pc + 1#16)) := by
  rw [State.fetchInstr, h]; rfl

/-- The opcode 0xAD at PC fetches LDA abs with the operand address (30_encoding.md R64, R67). -/
theorem fetchInstr_of_ldaAbs {s : State} (h : s.read s.pc = 0xAD#8) : s.fetchInstr = .ldaAbs (operandAddress s) := by
  rw [State.fetchInstr, h, ← joinBytes_operand]; rfl

/-- The opcode 0x8D at PC fetches STA abs with the operand address (30_encoding.md R64, R67). -/
theorem fetchInstr_of_staAbs {s : State} (h : s.read s.pc = 0x8D#8) : s.fetchInstr = .staAbs (operandAddress s) := by
  rw [State.fetchInstr, h, ← joinBytes_operand]; rfl

/-- `Execute` when the instruction at PC is known (40_cpu_execute.md R80): its effect and its row's cost. -/
theorem execute_of_fetchInstr {s : State} {i : Instr} (hgoing : s.halted = false) (hfetch : s.fetchInstr = i) :
    execute s = .next (effectOf i s, cycleCost i) := by
  rw [execute_of_not_halted hgoing, hfetch]

/-- No instruction reaches past PC, A, P, `Mem` and `halted` (40_cpu_execute.md R85). -/
theorem effectOf_sameOutsideCpu (i : Instr) (s : State) : SameOutsideCpu s (effectOf i s) := by
  cases i <;> exact ⟨rfl, rfl, rfl, rfl, rfl, rfl, rfl, rfl, rfl, rfl, rfl, rfl, rfl, rfl⟩

/-- The absolute form's effective address is its operand, whatever the state (41_cpu_load_store.md R93). -/
@[simp] theorem absoluteAddress_eq (addr : Addr) (s : State) : absoluteAddress addr s = addr := rfl

/-- Settles O5: A and P are those of the instruction's effect, its flags by `flagsSetFrom_updateFlags`; a register write leaves
`Mem`. -/
theorem ldaImmediateLoadsLiteral : Obligations.LdaImmediateLoadsLiteral := by
  unfold Obligations.LdaImmediateLoadsLiteral
  intro imm8 s
  refine ⟨_, exec_eq_next_effectOf _ s, rfl, flagsSetFrom_updateFlags s.p imm8, rfl, rfl, fun _ => rfl,
    effectOf_sameOutsideCpu _ s, ?execute⟩
  case execute =>
    rintro hgoing hopcode rfl
    exact execute_of_fetchInstr hgoing (fetchInstr_of_ldaImm hopcode)

/-- Settles O6: as LDA #imm, with the byte read at the operand address for the value. -/
theorem ldaAbsoluteLoadsByte : Obligations.LdaAbsoluteLoadsByte := by
  unfold Obligations.LdaAbsoluteLoadsByte
  intro addr s
  refine ⟨_, exec_eq_next_effectOf _ s, rfl, flagsSetFrom_updateFlags s.p (s.read addr), rfl, rfl, fun _ => rfl,
    effectOf_sameOutsideCpu _ s, ?execute⟩
  case execute =>
    rintro hgoing hopcode rfl
    exact execute_of_fetchInstr hgoing (fetchInstr_of_ldaAbs hopcode)

/-- Settles O7: the bytes of `Mem` by `State.read_write` at the effective address; the registers are those of the instruction's
effect. -/
theorem staAbsoluteStoresAccumulator : Obligations.StaAbsoluteStoresAccumulator := by
  unfold Obligations.StaAbsoluteStoresAccumulator
  intro addr s
  refine ⟨_, exec_eq_next_effectOf _ s, ?memory, rfl, rfl, rfl, rfl, effectOf_sameOutsideCpu _ s, ?execute⟩
  case memory =>
    rintro a rfl
    rw [absoluteAddress_eq]
    refine ⟨rfl, State.read_write_self _ addr s.a, fun b hb => ?_⟩
    rw [effectOf, State.read_write, if_neg hb, State.advancePc_eq, State.read_setPc]
  case execute =>
    rintro hgoing hopcode rfl
    exact execute_of_fetchInstr hgoing (fetchInstr_of_staAbs hopcode)

end Sys2Proof.Machine
end

section
/-! PROOF. JMP and NOP (42_cpu_control.md R100, R101): the fetch of each row, and the two instructions, whose whole effect is a write
of PC. -/

namespace Sys2Proof.Machine

/-- The opcode 0x4C at PC fetches JMP abs with the operand address (30_encoding.md R64, R67). -/
theorem fetchInstr_of_jmpAbs {s : State} (h : s.read s.pc = 0x4C#8) : s.fetchInstr = .jmpAbs (operandAddress s) := by
  rw [State.fetchInstr, h, ← joinBytes_operand]; rfl

/-- The opcode 0xEA at PC fetches NOP (30_encoding.md R64). -/
theorem fetchInstr_of_nop {s : State} (h : s.read s.pc = 0xEA#8) : s.fetchInstr = .nop := by
  rw [State.fetchInstr, h]; rfl

/-- A write of PC leaves every byte of `Mem` (10_state.md R17, R28). -/
theorem sameMem_setPc (s : State) (v : Addr) : SameMem s (s.setPc v) :=
  fun addr => State.read_setPc s v addr

/-- Settles O8: the effect of JMP is the write of its operand to PC, which leaves the registers, `Mem` and the rest of the state; the
fetch of its row ties it to `Execute`. -/
theorem jmpAbsoluteSetsPc : Obligations.JmpAbsoluteSetsPc := by
  unfold Obligations.JmpAbsoluteSetsPc
  intro addr s
  refine ⟨_, exec_eq_next_effectOf _ s, rfl, rfl, rfl, rfl, sameMem_setPc s addr, effectOf_sameOutsideCpu _ s, ?execute⟩
  case execute =>
    rintro hgoing hopcode rfl
    exact execute_of_fetchInstr hgoing (fetchInstr_of_jmpAbs hopcode)

/-- Settles O9: as JMP, with the address after the opcode, modulo 2^16, written to PC. -/
theorem nopOnlyAdvancesPc : Obligations.NopOnlyAdvancesPc := by
  unfold Obligations.NopOnlyAdvancesPc
  intro s
  refine ⟨_, exec_eq_next_effectOf _ s, rfl, rfl, rfl, rfl, sameMem_setPc s _, effectOf_sameOutsideCpu _ s, ?execute⟩
  case execute =>
    intro hgoing hopcode
    exact execute_of_fetchInstr hgoing (fetchInstr_of_nop hopcode)

end Sys2Proof.Machine
end

section
/-! PROOF. The tile decoder and the palette lookup (43_ppu_tile_decode.md R110, R113, R115). -/

namespace Sys2Proof.Machine

/-- A tile begins at its index times 16 (R110). -/
theorem tileBase_eq (t : Byte) : tileBase t = 16 * t.toNat := Nat.zero_add _

/-- A decoded tile has eight rows (R115). -/
@[simp] theorem length_decodeTile (vram : List Host.Cell) (t : Byte) : (decodeTile vram t).length = 8 := by
  rw [decodeTile, List.length_map, List.length_range]

/-- A decoded row has eight pixels (R111). -/
@[simp] theorem length_decodeTileRow (plane0 plane1 : Byte) : (decodeTileRow plane0 plane1).length = 8 := by
  rw [decodeTileRow, List.length_map, List.length_range]

/-- A row of a decoded tile is the decoding of two bytes (R115). -/
theorem exists_decodeTileRow_of_mem {vram : List Host.Cell} {t : Byte} {row : List (BitVec 2)} (h : row ∈ decodeTile vram t) :
    ∃ plane0 plane1, decodeTileRow plane0 plane1 = row := by
  obtain ⟨r, -, hrow⟩ := List.mem_map.1 h
  exact ⟨_, _, hrow⟩

/-- Settles O35: a pixel is the colour index of the two bytes of its row, by `tilePixel_decodeTile`, and its number is
`colorIndex_toNat`. -/
theorem tileDecodesFromItsSixteenBytes : Obligations.TileDecodesFromItsSixteenBytes := by
  unfold Obligations.TileDecodesFromItsSixteenBytes
  intro vram t
  refine ⟨length_decodeTile vram t, fun row hrow => ?rowLength, fun r c hr hc => ?pixel⟩
  case rowLength =>
    obtain ⟨plane0, plane1, rfl⟩ := exists_decodeTileRow_of_mem hrow
    exact length_decodeTileRow plane0 plane1
  case pixel => rw [tilePixel_decodeTile hr hc, colorIndex_toNat, tileBase_eq]

/-- Colour index 0 is transparent (R113). -/
@[simp] theorem paletteLookup_zero (pal : List Rgb) : paletteLookup pal 0 = none := if_pos rfl

/-- A colour index other than 0 names its palette entry (R113). -/
theorem paletteLookup_of_ne_zero (pal : List Rgb) {ci : BitVec 2} (h : ci ≠ 0) : paletteLookup pal ci = pal[ci.toNat]? := if_neg h

/-- The colour indices two bits can hold (R111). -/
theorem colorIndex_eq_zero_or_one_or_two_or_three : ∀ ci : BitVec 2, ci = 0 ∨ ci = 1 ∨ ci = 2 ∨ ci = 3 := by decide

/-- Palettes that agree on entries 1, 2 and 3 give every colour index the same colour (R113). -/
theorem paletteLookup_congr {pal pal' : List Rgb} (h1 : pal[1]? = pal'[1]?) (h2 : pal[2]? = pal'[2]?) (h3 : pal[3]? = pal'[3]?) :
    paletteLookup pal = paletteLookup pal' := by
  funext ci
  rcases colorIndex_eq_zero_or_one_or_two_or_three ci with rfl | rfl | rfl | rfl
  · rw [paletteLookup_zero, paletteLookup_zero]
  · exact h1
  · exact h2
  · exact h3

/-- A frame reads the palette through `PaletteLookup` only (44_ppu_raster.md R120). -/
theorem renderedFb_congr_paletteLookup {pal pal' : List Rgb} (h : paletteLookup pal = paletteLookup pal') (c : Config)
    (vram : List Host.Cell) : renderedFb c vram pal = renderedFb c vram pal' := by
  simp only [renderedFb, framePaints, cellPaints, tileRowPaints, h]

/-- Settles O36: the two cases of `PaletteLookup`, and two palettes that it cannot tell apart draw the same frame. -/
theorem paletteEntryZeroIsTransparent : Obligations.PaletteEntryZeroIsTransparent := by
  unfold Obligations.PaletteEntryZeroIsTransparent
  exact ⟨paletteLookup_zero, fun pal _ hne => paletteLookup_of_ne_zero pal hne,
    fun c vram _ _ h1 h2 h3 => renderedFb_congr_paletteLookup (paletteLookup_congr h1 h2 h3) c vram⟩

end Sys2Proof.Machine
end

section
/-! PROOF. A render's frame and its read set (44_ppu_raster.md R120, R122, R126): the bytes a map cell reads, and that a frame reads no
others. -/

namespace Sys2Proof.Machine

/-- `RenderFrame`, field by field: `FB` redrawn and handed to the host, nothing else (R120, R125). -/
theorem renderFrame_eq (c : Config) (s : State) :
    renderFrame c s =
      { s with
        fb := renderedFb c s.vram s.pal
        output := s.output ++ [.frame (renderedFb c s.vram s.pal)] } := rfl

/-- The map entry of a cell is in the read set (R122). -/
theorem rasterizerReads_mapEntry (c : Config) {row col : Nat} (hrow : row < Config.mapRows) (hcol : col < Config.mapCols) :
    RasterizerReads c (c.tilemapBase + row * Config.mapCols + col) := by
  simp only [Config.mapRows, Config.mapCols] at hrow hcol ⊢
  exact .inr ⟨by omega, by omega⟩

/-- The sixteen bytes of a tile's pattern are in the read set, whatever the tile (43_ppu_tile_decode.md R110). -/
theorem rasterizerReads_pattern (c : Config) (t : Byte) {i : Nat} (hi : i < 16) : RasterizerReads c (tileBase t + i) := by
  have ht : t.toNat < 256 := t.isLt
  rw [tileBase_eq]
  exact .inl (by omega)

/-- A decoded tile reads the sixteen bytes of its pattern only (43_ppu_tile_decode.md R115). -/
theorem decodeTile_congr {vram vram' : List Host.Cell} {t : Byte}
    (h : ∀ i < 16, vramRead vram (tileBase t + i) = vramRead vram' (tileBase t + i)) : decodeTile vram t = decodeTile vram' t := by
  refine List.map_congr_left fun r hr => ?_
  have hr : r < 8 := List.mem_range.1 hr
  rw [h (2 * r) (by omega), Nat.add_assoc, h (2 * r + 1) (by omega)]

section
variable {c : Config} {vram vram' : List Host.Cell} (h : ∀ off, RasterizerReads c off → vramRead vram off = vramRead vram' off)
include h

/-- A cell of the map reads its map entry and the pattern of the tile it names only (R120, R122). -/
theorem cellPaints_congr_vram (pal : List Rgb) {row col : Nat} (hrow : row < Config.mapRows) (hcol : col < Config.mapCols) :
    cellPaints c vram pal row col = cellPaints c vram' pal row col := by
  have hentry : mapEntry c vram row col = mapEntry c vram' row col := h _ (rasterizerReads_mapEntry c hrow hcol)
  have htile (t : Byte) : decodeTile vram t = decodeTile vram' t :=
    decodeTile_congr fun _ hi => h _ (rasterizerReads_pattern c t hi)
  rw [cellPaints, cellPaints, hentry, htile]

/-- A frame reads the map and the patterns of `Vram` only (R126). -/
theorem renderedFb_congr_vram (pal : List Rgb) : renderedFb c vram pal = renderedFb c vram' pal := by
  have hpaints : framePaints c vram pal = framePaints c vram' pal :=
    List.flatMap_congr fun _ hrow => List.flatMap_congr fun _ hcol =>
      cellPaints_congr_vram h pal (List.mem_range.1 hrow) (List.mem_range.1 hcol)
  rw [renderedFb, renderedFb, hpaints]

end

/-- Settles O38: the fields are those of `renderFrame_eq`; two states that agree on the read set draw the same frame, `Vram` by
`renderedFb_congr_vram` and then the palette by `paletteLookup_congr`. -/
theorem renderWritesOnlyTheFramebuffer : Obligations.RenderWritesOnlyTheFramebuffer := by
  unfold Obligations.RenderWritesOnlyTheFramebuffer
  intro c s
  rw [renderFrame_eq c s]
  refine ⟨⟨rfl, rfl, rfl, rfl⟩, rfl, rfl, rfl, rfl, rfl, rfl, rfl, rfl, rfl, rfl, rfl, rfl, rfl, rfl, ?readSet⟩
  case readSet =>
    intro u hvram h1 h2 h3
    rw [renderFrame_eq c u]
    calc renderedFb c u.vram u.pal
      _ = renderedFb c s.vram u.pal := renderedFb_congr_vram hvram u.pal
      _ = renderedFb c s.vram s.pal := renderedFb_congr_paletteLookup (paletteLookup_congr h1 h2 h3) c s.vram

end Sys2Proof.Machine
end

section
/-! PROOF. What a step emits (46_host_interface.md R163): the end of a frame body is the only operation that adds to the events. -/

namespace Sys2Proof.Machine

/-- One pass of the budget loop neither leaves the frame body nor emits (40_cpu_execute.md R85). -/
theorem loopBody_phase_output {s t : State} (h : loopBody s = .next t) : t.phase = s.phase ∧ t.output = s.output := by
  obtain ⟨u, -, hexec, rfl⟩ := loopBody_next h
  obtain rfl := exec_next hexec
  have hsame := effectOf_sameOutsideCpu s.fetchInstr s
  rw [State.addCycles_phase, State.addCycles_output]
  exact ⟨hsame.phase, hsame.output⟩

/-- The budget loop that goes on has made one pass (45_frame_scheduler.md R133). -/
theorem budgetLoop_succ_some {fuel : Nat} {s t : State} (h : budgetLoop (fuel + 1) s = some t) :
    (budgetLeft s = true ∧ ∃ u, loopBody s = .next u ∧ budgetLoop fuel u = some t) ∨ (budgetLeft s = false ∧ t = s) := by
  rw [budgetLoop] at h
  split at h
  next hleft =>
    split at h
    next u hbody => exact .inl ⟨hleft, u, hbody, h⟩
    next f _ => exact nomatch f
    next => cases h
  next hspent => exact .inr ⟨by simpa using hspent, (Option.some.inj h).symm⟩

/-- The budget loop emits nothing. -/
theorem budgetLoop_output {fuel : Nat} {s t : State} (h : budgetLoop fuel s = some t) : t.output = s.output := by
  induction fuel generalizing s with
  | zero =>
    rw [budgetLoop] at h
    split at h
    · cases h
    · obtain rfl := Option.some.inj h
      rfl
  | succ fuel ih =>
    rcases budgetLoop_succ_some h with ⟨-, u, hbody, hloop⟩ | ⟨-, rfl⟩
    · exact (ih hloop).trans (loopBody_phase_output hbody).2
    · rfl

/-- The end of a frame body goes back between ticks. -/
@[simp] theorem finishFrame_phase (c : Config) (s : State) : (finishFrame c s).phase = .between := by
  rw [finishFrame_eq]

/-- The end of a frame body emits its own framebuffer and then its own register snapshot (44_ppu_raster.md R125,
45_frame_scheduler.md R138). -/
theorem finishFrame_output (c : Config) (s : State) :
    (finishFrame c s).output =
      s.output ++ [.frame (finishFrame c s).fb, .notify (snapshotRegisters (finishFrame c s))] := by
  rw [finishFrame_eq]
  exact List.append_assoc ..

/-- A cold reset emits nothing (log 17). -/
@[simp] theorem coldReset_output (c : Config) (s : State) : (coldReset c s).output = s.output := by
  rw [coldReset_eq]

/-- A byte sequence stored in `Mem` emits nothing. -/
@[simp] theorem State.writeAll_output (s : State) (addr : Addr) (bytes : List Byte) : (s.writeAll addr bytes).output = s.output := by
  rw [State.writeAll_eq, State.setMem_output]

/-- A word stored in `Mem` emits nothing. -/
@[simp] theorem State.writeWord_output (s : State) (addr v : Addr) : (s.writeWord addr v).output = s.output := rfl

/-- `Start` emits nothing. -/
@[simp] theorem start_output (s : State) : (start s).output = s.output := by
  rw [start_eq]
  split <;> rfl

/-- The timer emits nothing: it only begins the tick. -/
@[simp] theorem timerFires_output (s : State) : (timerFires s).output = s.output := by
  rw [timerFires_eq]
  split <;> rfl

/-- No host operation emits anything itself. -/
theorem hostCall_output {c : Config} {op : HostOp} {s t : State} (h : hostCall c op s = .next t) : t.output = s.output := by
  have hleads := hostCall_next h
  cases op with
  | loadProgram bytes origin => obtain ⟨-, -, rfl⟩ := hleads; simp
  | setResetVector address => obtain ⟨-, rfl⟩ := hleads; simp
  | loadTiles bytes => obtain ⟨-, -, rfl⟩ := hleads; simp
  | loadTileMap bytes => obtain ⟨-, -, rfl⟩ := hleads; simp
  | setPalette colors => obtain ⟨-, -, rfl⟩ := hleads; simp
  | warmReset => obtain ⟨-, rfl⟩ := hleads; simp
  | coldReset => obtain rfl := hleads; simp
  | start => obtain rfl := hleads; simp
  | stop => obtain rfl := hleads; simp
  | snapshotRegisters => obtain rfl := hleads; rfl
  | disassembleWindow center radius => obtain rfl := hleads; rfl
  | stepFrame => obtain ⟨-, rfl⟩ := hleads; split <;> rfl

/-- A step between ticks emits nothing, whichever input it takes. -/
theorem betweenStep_output {c : Config} {s t : State} (h : betweenStep c s = .next t) : t.output = s.output := by
  rcases betweenStep_next h with ⟨-, rfl⟩ | ⟨rest, -, rfl⟩ | ⟨op, rest, -, hcall⟩
  · exact timerFires_output s
  · rw [timerFires_output, State.setInputs_output]
  · rw [hostCall_output hcall, State.setInputs_output]

/-- Settles O24: by the inversion lemma for the step, a step between ticks and a pass of the budget loop emit nothing, and the end of
a frame body emits the two events; the atomic tick is a budget loop and then that end. -/
theorem eachTickEmitsOneFrameThenOneNotify : Obligations.EachTickEmitsOneFrameThenOneNotify := by
  unfold Obligations.EachTickEmitsOneFrameThenOneNotify
  refine ⟨fun c s t h => ?step, fun c fuel s t h => ?tick⟩
  case step =>
    rcases stepWith_next h with ⟨hbetween, hstep⟩ | ⟨hframe, -, hbody⟩ | ⟨hframe, -, rfl⟩
    · exact .inr ⟨fun hends => hends.1.ne_between hbetween, betweenStep_output hstep⟩
    · obtain ⟨hphase, houtput⟩ := loopBody_phase_output hbody
      exact .inr ⟨fun hends => hends.1.ne_between (hphase.symm.trans hends.2), houtput⟩
    · exact .inl ⟨hframe, finishFrame_phase c s, finishFrame_output c s⟩
  case tick =>
    obtain ⟨-, hframe⟩ := tick_some h
    obtain ⟨u, hloop, rfl⟩ := frameBody_some hframe
    rw [finishFrame_output, budgetLoop_output hloop, State.beginFrame_output]

end Sys2Proof.Machine
end

section
/-! PROOF. `SetResetVector` (46_host_interface.md R152) and the warm reset that follows it (70_reset_and_hazards.md R192). -/

namespace Sys2Proof.Machine

/-- While Stopped a setup operation is admitted (46_host_interface.md R150): the converse of `whileStopped_next`. -/
theorem whileStopped_of_stopped {s : State} (h : s.running = false) (o : Host.Outcome State Fault Refusal) :
    whileStopped s o = o := by
  simp [whileStopped, h]

/-- A word written reads back, at 0xFFFF too (20_memory.md R43, R45). -/
@[simp] theorem State.readWord_writeWord_self (s : State) (addr v : Addr) : (s.writeWord addr v).readWord addr = v := by
  have hnext : addr ≠ addr + 1#16 := by bv_omega
  rw [State.readWord, State.read_writeWord, State.read_writeWord, if_neg hnext, if_pos rfl, if_pos rfl,
    joinBytes_lowByte_highByte]

/-- A word write leaves A, P, PC and `halted`. -/
theorem sameCpu_writeWord (s : State) (addr v : Addr) : SameCpu s (s.writeWord addr v) := ⟨rfl, rfl, rfl, rfl⟩

/-- A word write leaves everything outside the CPU and `Mem`. -/
theorem sameOutsideCpu_writeWord (s : State) (addr v : Addr) : SameOutsideCpu s (s.writeWord addr v) :=
  ⟨rfl, rfl, rfl, rfl, rfl, rfl, rfl, rfl, rfl, rfl, rfl, rfl, rfl, rfl⟩

/-- Settles O42: the operation is a word write at the reset vector, whose bytes are those of `State.read_writeWord`; it leaves the
scheduler Stopped, so the warm reset is admitted and reads the word back. -/
theorem setResetVectorStoresTheVector : Obligations.SetResetVectorStoresTheVector := by
  unfold Obligations.SetResetVectorStoresTheVector
  intro c s address hstopped
  have hhigh : Config.resetVector + 1#16 = 0xFFFD := by decide
  have hlow : (0xFFFC : Addr) ≠ 0xFFFD := by decide
  have hread (b : Addr) := State.read_writeWord s Config.resetVector b address
  simp only [hhigh] at hread
  refine ⟨s.writeWord Config.resetVector address, whileStopped_of_stopped hstopped _, ?low, ?high, fun b hblow hbhigh => ?others,
    sameCpu_writeWord s _ _, sameOutsideCpu_writeWord s _ _, ?warmReset⟩
  case low => rw [hread, if_neg hlow, if_pos rfl, lowByte_toNat]
  case high => rw [hread, if_pos rfl, highByte_toNat]
  case others => rw [hread, if_neg hbhigh, if_neg hblow]
  case warmReset =>
    have hstill := (sameOutsideCpu_writeWord s Config.resetVector address).running.trans hstopped
    rw [hostCall, whileStopped_of_stopped hstill, State.warmReset_eq, State.readWord_writeWord_self, State.setPc]

end Sys2Proof.Machine
end

section
/-! PROOF. Decode and encode undo each other (30_encoding.md R61, R64, section 6): the bytes each format takes, the table's rows written
in them, and the two round trips. -/

namespace Sys2Proof.Machine

/-- A well-formed undefined instruction carries an opcode outside the table (30_encoding.md R68). -/
theorem wellFormed_undef_iff (op : Byte) : (Instr.undef op).wellFormed = true ↔ op ∉ definedOpcodes := by
  simp [Instr.wellFormed, isDefinedOpcode]

/-- Settles O3: each defined row by the equation of its format, an absolute address put together again from its two bytes, and the
undefined row by the two facts about opcodes outside the table. -/
theorem decodeOfEncodeIsTheInstruction : Obligations.DecodeOfEncodeIsTheInstruction := by
  unfold Obligations.DecodeOfEncodeIsTheInstruction
  intro i rest hwf
  cases i with
  | ldaImm imm8 => exact decode_of_imm rfl imm8 rest
  | ldaAbs addr =>
    simpa [encode, decodeInstr] using decode_of_abs (op := 0xAD#8) rfl (lowByte addr) (highByte addr) rest
  | staAbs addr =>
    simpa [encode, decodeInstr] using decode_of_abs (op := 0x8D#8) rfl (lowByte addr) (highByte addr) rest
  | jmpAbs addr =>
    simpa [encode, decodeInstr] using decode_of_abs (op := 0x4C#8) rfl (lowByte addr) (highByte addr) rest
  | nop => exact decode_of_imp rfl rest
  | brk => exact decode_of_imp rfl rest
  | undef op =>
    have hundef := (wellFormed_undef_iff op).1 hwf
    rw [encode, List.singleton_append, decode_of_imp (formatOf_undefined hundef), decodeInstr_undefined hundef]

/-- The bytes a format takes of an opcode byte and the two bytes after it (30_encoding.md R61). -/
def formatBytes (op b1 b2 : Byte) : Format → List Byte
  | .imp => [op]
  | .imm => [op, b1]
  | .abs => [op, b1, b2]

/-- A row of the table is well formed, and its encoding is the bytes its format takes (30_encoding.md R64, R65). -/
theorem encode_decodeInstr (op b1 b2 : Byte) :
    (decodeInstr op b1 b2).wellFormed = true ∧ encode (decodeInstr op b1 b2) = formatBytes op b1 b2 (formatOf op) := by
  by_cases hdefined : op ∈ definedOpcodes
  · simp only [definedOpcodes, List.mem_cons, List.not_mem_nil, or_false] at hdefined
    rcases hdefined with rfl | rfl | rfl | rfl | rfl | rfl
    case inl => exact ⟨rfl, rfl⟩
    case inr.inl => exact ⟨rfl, by simp [decodeInstr, encode, formatOf, formatBytes]⟩
    case inr.inr.inl => exact ⟨rfl, by simp [decodeInstr, encode, formatOf, formatBytes]⟩
    case inr.inr.inr.inl => exact ⟨rfl, by simp [decodeInstr, encode, formatOf, formatBytes]⟩
    case inr.inr.inr.inr.inl => exact ⟨rfl, rfl⟩
    case inr.inr.inr.inr.inr => exact ⟨rfl, rfl⟩
  · rw [decodeInstr_undefined hdefined, formatOf_undefined hdefined]
    exact ⟨(wellFormed_undef_iff op).2 hdefined, rfl⟩

/-- What `decode` can do, said once: if it answers an instruction, that is the table's row for the opcode byte and two operand bytes,
and the bytes consumed are those of the row's format. -/
theorem decode_ok {bytes rest : List Byte} {i : Instr} (h : decode bytes = .ok (i, rest)) :
    ∃ op b1 b2, i = decodeInstr op b1 b2 ∧ bytes = formatBytes op b1 b2 (formatOf op) ++ rest := by
  unfold decode at h
  split at h
  next => cases h
  next op tail =>
    generalize hformat : formatOf op = format at h
    split at h
    next =>
      cases h
      exact ⟨op, 0, 0, rfl, by rw [hformat]; rfl⟩
    next b1 tail =>
      cases h
      exact ⟨op, b1, 0, rfl, by rw [hformat]; rfl⟩
    next b1 b2 tail =>
      cases h
      exact ⟨op, b1, b2, rfl, by rw [hformat]; rfl⟩
    next => cases h
    next => cases h
    next => cases h

/-- Settles O4: by the inversion of `decode`, what is decoded is a row of the table and the bytes consumed are its encoding. -/
theorem encodeOfDecodeIsTheBytes : Obligations.EncodeOfDecodeIsTheBytes := by
  unfold Obligations.EncodeOfDecodeIsTheBytes
  intro bytes rest i h
  obtain ⟨op, b1, b2, rfl, rfl⟩ := decode_ok h
  obtain ⟨hwf, hbytes⟩ := encode_decodeInstr op b1 b2
  exact ⟨hwf, by rw [hbytes]⟩

/-- Settles O2: the seven words, each by running the decoder on its bytes. -/
theorem tableWordsDecodeToTheirRows : Obligations.TableWordsDecodeToTheirRows := by
  unfold Obligations.TableWordsDecodeToTheirRows
  exact ⟨rfl, rfl, rfl, rfl, rfl, rfl, rfl⟩

end Sys2Proof.Machine
end

section
/-! PROOF. BRK and the undefined opcodes (42_cpu_control.md R102, R103), the halted CPU (40_cpu_execute.md R81), and the reach of
`Execute` over all rows (R85). -/

namespace Sys2Proof.Machine

/-- The opcode 0x00 at PC fetches BRK (30_encoding.md R64). -/
theorem fetchInstr_of_brk {s : State} (h : s.read s.pc = 0x00#8) : s.fetchInstr = .brk := by
  rw [State.fetchInstr, h]; rfl

/-- An opcode outside the table at PC fetches the undefined row (30_encoding.md R62, R68). -/
theorem fetchInstr_of_undefined {s : State} (h : s.read s.pc ∉ definedOpcodes) : s.fetchInstr = .undef (s.read s.pc) :=
  decodeInstr_undefined h _ _

/-- The table's opcodes in ascending order, as the statements list them. -/
theorem mem_definedOpcodes_iff (op : Byte) :
    op ∈ definedOpcodes ↔ op ∈ ([0x00#8, 0x4C#8, 0x8D#8, 0xA9#8, 0xAD#8, 0xEA#8] : List Byte) := by
  have hperm : definedOpcodes.Perm [0x00#8, 0x4C#8, 0x8D#8, 0xA9#8, 0xAD#8, 0xEA#8] := by decide
  exact hperm.mem_iff

/-- Settles O10: the effect of BRK is a write of PC and the halt; the fetch of its row ties it to `Execute`. -/
theorem brkHaltsTheCpu : Obligations.BrkHaltsTheCpu := by
  unfold Obligations.BrkHaltsTheCpu
  intro s
  refine ⟨_, exec_eq_next_effectOf _ s, rfl, rfl, rfl, rfl, fun _ => rfl, effectOf_sameOutsideCpu _ s, ?execute⟩
  case execute =>
    intro hgoing hopcode
    exact execute_of_fetchInstr hgoing (fetchInstr_of_brk hopcode)

/-- Settles O11: as NOP, for every opcode; only one outside the table is fetched as this row. -/
theorem undefinedOpcodeOnlyAdvancesPc : Obligations.UndefinedOpcodeOnlyAdvancesPc := by
  unfold Obligations.UndefinedOpcodeOnlyAdvancesPc
  intro op s
  refine ⟨_, exec_eq_next_effectOf _ s, rfl, rfl, rfl, rfl, sameMem_setPc s _, effectOf_sameOutsideCpu _ s, ?execute⟩
  case execute =>
    rintro hgoing rfl hundef
    exact execute_of_fetchInstr hgoing (fetchInstr_of_undefined (mt (mem_definedOpcodes_iff _).1 hundef))

/-- Settles O15: the test of `halted` comes before the fetch. -/
theorem haltedCpuRefusesExecute : Obligations.HaltedCpuRefusesExecute := by
  unfold Obligations.HaltedCpuRefusesExecute
  exact fun s hhalted => if_pos hhalted

/-- The flag update keeps the six storage bits of P (10_state.md R22). -/
theorem sameStorageBits_updateFlags (p v : Byte) : SameStorageBits p (updateFlags p v) := (flagsSetFrom_updateFlags p v).rest

/-- No instruction changes a storage bit of P (10_state.md R21, R22). -/
theorem effectOf_sameStorageBits (i : Instr) (s : State) : SameStorageBits s.p (effectOf i s).p := by
  cases i with
  | ldaImm imm8 => exact sameStorageBits_updateFlags s.p imm8
  | ldaAbs addr => exact sameStorageBits_updateFlags s.p (s.read addr)
  | staAbs addr => exact fun _ _ _ => rfl
  | jmpAbs addr => exact fun _ _ _ => rfl
  | nop => exact fun _ _ _ => rfl
  | brk => exact fun _ _ _ => rfl
  | undef op => exact fun _ _ _ => rfl

/-- The byte at an address after STA: A at the operand, every other byte as before (41_cpu_load_store.md R92). -/
theorem read_effectOf_staAbs (addr b : Addr) (s : State) :
    (effectOf (.staAbs addr) s).read b = if b = addr then s.a else s.read b := by
  rw [effectOf, State.read_write, State.advancePc_eq, State.read_setPc]

/-- A byte write leaves A. -/
@[simp] theorem State.write_a (s : State) (addr : Addr) (v : Byte) : (s.write addr v).a = s.a := rfl

/-- A byte write leaves `halted`. -/
@[simp] theorem State.write_halted (s : State) (addr : Addr) (v : Byte) : (s.write addr v).halted = s.halted := rfl

/-- Settles O16: the frame and the storage bits hold of every effect; for the rest, by the row fetched, a row either leaves the element
or is the one the statement names. -/
theorem executeReachesOnlyItsOwnState : Obligations.ExecuteReachesOnlyItsOwnState := by
  unfold Obligations.ExecuteReachesOnlyItsOwnState
  intro s t n h
  obtain ⟨-, hexec, -⟩ := execute_next h
  obtain rfl := exec_next hexec
  refine ⟨effectOf_sameOutsideCpu _ s, effectOf_sameStorageBits _ s, ?_⟩
  have hrow := fetchInstr_cases s
  generalize s.fetchInstr = i at hrow
  cases hrow with
  | ldaImm hopcode => simp [effectOf, hopcode]
  | ldaAbs hopcode => simp [effectOf, hopcode]
  | staAbs hopcode =>
    refine ⟨by simp [effectOf], by simp [effectOf], fun b hne => ⟨hopcode, ?_⟩⟩
    by_contra hb
    exact hne (by rw [read_effectOf_staAbs, if_neg hb])
  | jmpAbs => simp [effectOf]
  | nop => simp [effectOf]
  | brk hopcode => simp [effectOf, hopcode]
  | undef => simp [effectOf]

/-- Settles O17: each effect answers (`exec_eq_next_effectOf`); what STA stores is read by `read_effectOf_staAbs`, and the flags of the
load are those of the value read. -/
theorem loadStoreRoundTrips : Obligations.LoadStoreRoundTrips := by
  unfold Obligations.LoadStoreRoundTrips
  refine ⟨fun v addr s => ?literal, fun addr s => ?accumulator⟩
  case literal =>
    exact ⟨_, _, exec_eq_next_effectOf _ _, exec_eq_next_effectOf _ _, by rw [read_effectOf_staAbs, if_pos rfl]; rfl, rfl⟩
  case accumulator =>
    have hread : (effectOf (.staAbs addr) s).read addr = s.a := by rw [read_effectOf_staAbs, if_pos rfl]
    have hflags := flagsSetFrom_updateFlags s.p ((effectOf (.staAbs addr) s).read addr)
    exact ⟨_, _, exec_eq_next_effectOf _ _, exec_eq_next_effectOf _ _, hread, hread ▸ hflags⟩

/-- The fetched bytes, one by one (20_memory.md R47). -/
theorem getElem?_fetchBytes (s : State) {k : Nat} (hk : k < 3) : s.fetchBytes[k]? = some (s.read (s.pc + BitVec.ofNat 16 k)) := by
  interval_cases k
  · rw [BitVec.add_zero]; rfl
  · rfl
  · rfl

/-- Settles O18: STA at PC is executed with its operand address, and the next fetch reads that address through `read_effectOf_staAbs`. -/
theorem storeIsSeenByNextFetch : Obligations.StoreIsSeenByNextFetch := by
  unfold Obligations.StoreIsSeenByNextFetch
  intro s k hgoing hopcode hk hoperand
  refine ⟨_, execute_of_fetchInstr hgoing (fetchInstr_of_staAbs hopcode), rfl, ?_⟩
  have hpc : (effectOf (.staAbs (operandAddress s)) s).pc = s.pc + 3#16 := rfl
  have hnext : s.pc + 3#16 + BitVec.ofNat 16 k = operandAddress s := by
    rw [hoperand, BitVec.add_assoc, BitVec.ofNat_add]
  rw [getElem?_fetchBytes _ hk, hpc, hnext, read_effectOf_staAbs, if_pos rfl]

end Sys2Proof.Machine
end

section
/-! PROOF. Words of `Mem` (20_memory.md R43, R45) and the canonical form of a memory (10_state.md section 6; log 16). -/

namespace Sys2Proof.Machine

/-- Settles O19: the word reads back by `State.readWord_writeWord_self`, its bytes stand by `State.read_writeWord`, and a word read is
`joinBytes_toNat` of its two bytes. -/
theorem wordsAreLittleEndian : Obligations.WordsAreLittleEndian := by
  unfold Obligations.WordsAreLittleEndian
  intro s addr v
  have hnext : addr ≠ addr + 1#16 := by bv_omega
  refine ⟨State.readWord_writeWord_self s addr v, ?low, ?high, fun b hlow hhigh => ?others, joinBytes_toNat _ _⟩
  case low => rw [State.read_writeWord, if_neg hnext, if_pos rfl, lowByte_toNat]
  case high => rw [State.read_writeWord, if_pos rfl, highByte_toNat]
  case others => rw [State.read_writeWord, if_neg hhigh, if_neg hlow]

/-- No key below the start of rising keys is listed. -/
theorem lookup_eq_none_of_risingFrom {α : Type} {low k : Nat} {l : List (Nat × α)} (h : risingFrom low l = true) (hk : k < low) :
    lookup l k = none := by
  induction l generalizing low with
  | nil => rfl
  | cons e rest ih =>
    simp only [risingFrom, Bool.and_eq_true, decide_eq_true_eq] at h
    obtain ⟨hlow, hrest⟩ := h
    rw [lookup, if_neg (by omega), ih hrest (by omega)]

/-- A listed key has an entry. -/
theorem mem_of_lookup_eq_some {α : Type} {l : List (Nat × α)} {k : Nat} {v : α} (h : lookup l k = some v) : (k, v) ∈ l := by
  induction l with
  | nil => cases h
  | cons e rest ih =>
    rw [lookup] at h
    split at h
    next hkey =>
      obtain rfl := Option.some.inj h
      exact hkey ▸ List.mem_cons_self ..
    next => exact List.mem_cons_of_mem _ (ih h)

/-- Lists with rising keys are determined by what they list for each key. -/
theorem eq_of_lookup_eq {α : Type} {low : Nat} {l l' : List (Nat × α)} (hl : risingFrom low l = true)
    (hl' : risingFrom low l' = true) (h : ∀ k, lookup l k = lookup l' k) : l = l' := by
  induction l generalizing low l' with
  | nil =>
    cases l' with
    | nil => rfl
    | cons e' rest' => simpa [lookup] using h e'.1
  | cons e rest ih =>
    cases l' with
    | nil => simpa [lookup] using h e.1
    | cons e' rest' =>
      simp only [risingFrom, Bool.and_eq_true, decide_eq_true_eq] at hl hl'
      obtain ⟨-, hrest⟩ := hl
      obtain ⟨-, hrest'⟩ := hl'
      have hkey : e.1 = e'.1 := by
        rcases Nat.lt_trichotomy e.1 e'.1 with hlt | heq | hgt
        · have := h e.1
          rw [lookup, if_pos rfl, lookup, if_neg (by omega), lookup_eq_none_of_risingFrom hrest' (by omega)] at this
          cases this
        · exact heq
        · have := h e'.1
          rw [lookup, if_neg (by omega), lookup, if_pos rfl, lookup_eq_none_of_risingFrom hrest (by omega)] at this
          cases this
      have hvalue : e.2 = e'.2 := by simpa [lookup, hkey] using h e.1
      obtain rfl : e = e' := Prod.ext hkey hvalue
      refine congrArg (e :: ·) (ih hrest hrest' fun k => ?_)
      by_cases hk : e.1 = k
      · rw [lookup_eq_none_of_risingFrom hrest (by omega), lookup_eq_none_of_risingFrom hrest' (by omega)]
      · simpa [lookup, hk] using h k

/-- What a canonical memory lists for an address, from the byte read there: an unlisted byte is not listed. -/
theorem Memory.lookup_eq_of_wf {size : Nat} {m : List Host.Cell} (h : Memory.wf size m = true) (k : Nat) :
    lookup m k = if Memory.readByte m k = Memory.unlisted then none else some (Memory.readByte m k) := by
  obtain ⟨-, hlisted⟩ := Memory.wf_iff.1 h
  unfold Memory.readByte
  cases hlook : lookup m k with
  | none => simp
  | some v =>
    have hv : v ≠ Memory.unlisted := (hlisted _ (mem_of_lookup_eq_some hlook)).2
    simp [hv]

/-- Settles O20: equal bytes make equal listings, and rising keys make the listing the list. -/
theorem canonicalMemoriesWithEqualBytesAreEqual : Obligations.CanonicalMemoriesWithEqualBytesAreEqual := by
  unfold Obligations.CanonicalMemoriesWithEqualBytesAreEqual
  intro size m n hm hn hbytes
  refine eq_of_lookup_eq (Memory.wf_iff.1 hm).1 (Memory.wf_iff.1 hn).1 fun k => ?_
  rw [Memory.lookup_eq_of_wf hm, Memory.lookup_eq_of_wf hn, hbytes]

end Sys2Proof.Machine
end

section
/-! PROOF. One pass of the budget loop as a state (40_cpu_execute.md R80, 45_frame_scheduler.md R133), what a host operation can do to
everything but PC and the memories, and the step case by case; with these the single steps of 45_frame_scheduler.md. -/

namespace Sys2Proof.Machine

/-- The state one pass of the budget loop leaves: the effect of the instruction at PC, its cost counted twice (R133). -/
def State.runInstr (s : State) : State := (effectOf s.fetchInstr s).addCycles (cycleCost s.fetchInstr)

/-- On a CPU that is not halted, `runInstr` is what the budget loop's body answers. -/
theorem loopBody_of_not_halted {s : State} (h : s.halted = false) : loopBody s = .next s.runInstr := by
  rw [loopBody, execute_of_not_halted h, State.runInstr]

/-- With budget left, `runInstr` is what the budget loop's body answers. -/
theorem loopBody_of_budgetLeft {s : State} (h : budgetLeft s = true) : loopBody s = .next s.runInstr :=
  loopBody_of_not_halted (budgetLeft_iff.1 h).2

namespace State

variable (s : State)

@[simp] theorem runInstr_x : s.runInstr.x = s.x := (effectOf_sameOutsideCpu s.fetchInstr s).x
@[simp] theorem runInstr_y : s.runInstr.y = s.y := (effectOf_sameOutsideCpu s.fetchInstr s).y
@[simp] theorem runInstr_sp : s.runInstr.sp = s.sp := (effectOf_sameOutsideCpu s.fetchInstr s).sp
@[simp] theorem runInstr_vram : s.runInstr.vram = s.vram := (effectOf_sameOutsideCpu s.fetchInstr s).vram
@[simp] theorem runInstr_pal : s.runInstr.pal = s.pal := (effectOf_sameOutsideCpu s.fetchInstr s).pal
@[simp] theorem runInstr_fb : s.runInstr.fb = s.fb := (effectOf_sameOutsideCpu s.fetchInstr s).fb
@[simp] theorem runInstr_running : s.runInstr.running = s.running := (effectOf_sameOutsideCpu s.fetchInstr s).running
@[simp] theorem runInstr_phase : s.runInstr.phase = s.phase := (effectOf_sameOutsideCpu s.fetchInstr s).phase
@[simp] theorem runInstr_inputs : s.runInstr.inputs = s.inputs := (effectOf_sameOutsideCpu s.fetchInstr s).inputs
@[simp] theorem runInstr_output : s.runInstr.output = s.output := (effectOf_sameOutsideCpu s.fetchInstr s).output

@[simp] theorem runInstr_frameCycles : s.runInstr.frameCycles = s.frameCycles + cycleCost s.fetchInstr :=
  congrArg (· + _) (effectOf_counters s.fetchInstr s).1

@[simp] theorem runInstr_totalCycles : s.runInstr.totalCycles = s.totalCycles + cycleCost s.fetchInstr :=
  congrArg (· + _) (effectOf_counters s.fetchInstr s).2

/-- No instruction reads or changes the inputs to come (45_frame_scheduler.md R140). -/
theorem runInstr_setInputs (inputs : List Input) : (s.setInputs inputs).runInstr = s.runInstr.setInputs inputs := by
  have hfetch : (s.setInputs inputs).fetchInstr = s.fetchInstr := rfl
  rw [runInstr, runInstr, hfetch]
  cases s.fetchInstr <;> rfl

end State

/-- Everything but PC, `Mem`, `Vram` and `Pal` is the same: what the loaders, a warm reset and the read-backs leave
(46_host_interface.md). -/
structure SameButPcAndMemories (s t : State) : Prop where
  a : t.a = s.a
  x : t.x = s.x
  y : t.y = s.y
  sp : t.sp = s.sp
  p : t.p = s.p
  halted : t.halted = s.halted
  fb : t.fb = s.fb
  running : t.running = s.running
  totalCycles : t.totalCycles = s.totalCycles
  lastTick : t.lastTick = s.lastTick
  frameCycles : t.frameCycles = s.frameCycles
  phase : t.phase = s.phase
  inputs : t.inputs = s.inputs
  output : t.output = s.output
  clockReads : t.clockReads = s.clockReads

/-- A state is the same as itself. -/
theorem SameButPcAndMemories.refl (s : State) : SameButPcAndMemories s s :=
  ⟨rfl, rfl, rfl, rfl, rfl, rfl, rfl, rfl, rfl, rfl, rfl, rfl, rfl, rfl, rfl⟩

/-- `Mem` replaced is nothing else replaced. -/
theorem sameButPcAndMemories_setMem (s : State) (m : List Host.Cell) : SameButPcAndMemories s (s.setMem m) :=
  ⟨rfl, rfl, rfl, rfl, rfl, rfl, rfl, rfl, rfl, rfl, rfl, rfl, rfl, rfl, rfl⟩

/-- What a host operation can do outside PC and the memories: only a cold reset, `Start`, `Stop` and `StepFrame` do anything. -/
inductive HostCallCase (c : Config) (s : State) : HostOp → State → Prop where
  | coldReset : HostCallCase c s .coldReset (coldReset c s)
  | start : HostCallCase c s .start (start s)
  | stop : HostCallCase c s .stop (s.setRunning false)
  | stepFrame : s.running = false → HostCallCase c s .stepFrame (if s.halted then s else s.beginFrame .inStepFrame)
  | other {op : HostOp} {t : State} : SameButPcAndMemories s t → op ≠ .coldReset → op ≠ .start → op ≠ .stop →
      HostCallCase c s op t

/-- Every host operation that answers a next state is one of those cases. -/
theorem hostCall_cases {c : Config} {op : HostOp} {s t : State} (h : hostCall c op s = .next t) : HostCallCase c s op t := by
  have hleads := hostCall_next h
  cases op with
  | loadProgram bytes origin =>
    obtain ⟨-, -, rfl⟩ := hleads
    rw [State.writeAll_eq]
    exact .other (sameButPcAndMemories_setMem s _) nofun nofun nofun
  | setResetVector address =>
    obtain ⟨-, rfl⟩ := hleads
    exact .other (sameButPcAndMemories_setMem s _) nofun nofun nofun
  | loadTiles bytes => obtain ⟨-, -, rfl⟩ := hleads; exact .other { SameButPcAndMemories.refl s with } nofun nofun nofun
  | loadTileMap bytes => obtain ⟨-, -, rfl⟩ := hleads; exact .other { SameButPcAndMemories.refl s with } nofun nofun nofun
  | setPalette colors => obtain ⟨-, -, rfl⟩ := hleads; exact .other { SameButPcAndMemories.refl s with } nofun nofun nofun
  | warmReset => obtain ⟨-, rfl⟩ := hleads; exact .other { SameButPcAndMemories.refl s with } nofun nofun nofun
  | coldReset => obtain rfl := hleads; exact .coldReset
  | start => obtain rfl := hleads; exact .start
  | stop => obtain rfl := hleads; exact .stop
  | snapshotRegisters => obtain rfl := hleads; exact .other (.refl _) nofun nofun nofun
  | disassembleWindow center radius => obtain rfl := hleads; exact .other (.refl _) nofun nofun nofun
  | stepFrame => obtain ⟨hstopped, rfl⟩ := hleads; exact .stepFrame hstopped

/-- What a step can do, case by case (45_frame_scheduler.md R133, R139, R140): between ticks the timer or a host operation, inside a frame
body an instruction or its end. -/
inductive StepCase (c : Config) (s : State) : State → Prop where
  | timerUnlisted : s.phase = .between → s.inputs = [] → StepCase c s (timerFires s)
  | timerListed (rest : List Input) : s.phase = .between → s.inputs = .timer :: rest →
      StepCase c s (timerFires (s.setInputs rest))
  | host {t : State} (op : HostOp) (rest : List Input) : s.phase = .between → s.inputs = .host op :: rest →
      hostCall c op (s.setInputs rest) = .next t → StepCase c s t
  | instr : InFrame s → budgetLeft s = true → StepCase c s s.runInstr
  | finish : InFrame s → budgetLeft s = false → StepCase c s (finishFrame c s)

/-- Every step that answers a next state is one of those cases. -/
theorem stepWith_cases {c : Config} {s t : State} (h : stepWith c s = .next t) : StepCase c s t := by
  rcases stepWith_next h with ⟨hbetween, hstep⟩ | ⟨hframe, hleft, hbody⟩ | ⟨hframe, hspent, rfl⟩
  · rcases betweenStep_next hstep with ⟨hinputs, rfl⟩ | ⟨rest, hinputs, rfl⟩ | ⟨op, rest, hinputs, hcall⟩
    · exact .timerUnlisted hbetween hinputs
    · exact .timerListed rest hbetween hinputs
    · exact .host op rest hbetween hinputs hcall
  · rw [loopBody_of_budgetLeft hleft] at hbody
    obtain rfl := Host.Outcome.next.inj hbody
    exact .instr hframe hleft
  · exact .finish hframe hspent

/-- The bytes fetched at PC decode to the instruction fetched (40_cpu_execute.md R80): they begin with the bytes that encode it. -/
theorem decode_fetchBytes (s : State) : ∃ rest, decode s.fetchBytes = .ok (s.fetchInstr, rest) := by
  obtain ⟨hwf, hbytes⟩ := encode_decodeInstr (s.read s.pc) (s.read (s.pc + 1#16)) (s.read (s.pc + 2#16))
  obtain ⟨rest, hrest⟩ : ∃ rest, encode s.fetchInstr ++ rest = s.fetchBytes := by
    rw [State.fetchInstr, hbytes]
    cases formatOf (s.read s.pc) <;> exact ⟨_, rfl⟩
  exact ⟨rest, hrest ▸ decodeOfEncodeIsTheInstruction _ rest hwf⟩

/-- Settles O21: what the fetched bytes decode to is the instruction fetched, a row of the table; with budget left the step is one pass
of the budget loop on it. -/
theorem stepRunsDecodedInstruction : Obligations.StepRunsDecodedInstruction := by
  unfold Obligations.StepRunsDecodedInstruction
  intro s i rest hframe hcycles hgoing hdecode
  obtain ⟨rest', hfetched⟩ := decode_fetchBytes s
  obtain ⟨rfl, -⟩ := Prod.mk.inj (Except.ok.inj (hfetched.symm.trans hdecode))
  refine ⟨(encode_decodeInstr _ _ _).1, _, exec_eq_next_effectOf _ s, ?step⟩
  have hleft : budgetLeft s = true := budgetLeft_iff.2 ⟨hcycles, hgoing⟩
  rw [step, stepWith_of_budgetLeft hframe hleft, loopBody_of_budgetLeft hleft, State.runInstr, State.addCycles,
    (effectOf_counters _ s).1, (effectOf_counters _ s).2]

/-- A Running scheduler's timer begins a tick (R133). -/
theorem timerFires_of_running {s : State} (h : s.running = true) : timerFires s = s.beginFrame .inTick := if_pos h

/-- A Stopped scheduler's timer does nothing (60_exceptions.md R173). -/
theorem timerFires_of_stopped {s : State} (h : s.running = false) : timerFires s = s := by simp [timerFires, h]

/-- Between ticks, with no input left, the step is the timer's (R139). -/
theorem stepWith_of_noInputs {c : Config} {s : State} (hbetween : s.phase = .between) (hinputs : s.inputs = []) :
    stepWith c s = .next (timerFires s) := by
  simp [stepWith, hbetween, betweenStep, hinputs]

/-- Between ticks a timer input is the timer's step, and is consumed (R139, R140). -/
theorem stepWith_of_timer {c : Config} {s : State} {rest : List Input} (hbetween : s.phase = .between)
    (hinputs : s.inputs = .timer :: rest) : stepWith c s = .next (timerFires (s.setInputs rest)) := by
  simp [stepWith, hbetween, betweenStep, hinputs]

/-- Between ticks a host input is its operation, and is consumed (R140). -/
theorem stepWith_of_host {c : Config} {s : State} {op : HostOp} {rest : List Input} (hbetween : s.phase = .between)
    (hinputs : s.inputs = .host op :: rest) : stepWith c s = hostCall c op (s.setInputs rest) := by
  simp [stepWith, hbetween, betweenStep, hinputs]

/-- Settles O22: the step between ticks by its next input, and the timer by `running`. -/
theorem ticksBeginOnlyWhileRunning : Obligations.TicksBeginOnlyWhileRunning := by
  unfold Obligations.TicksBeginOnlyWhileRunning
  intro c s hbetween
  refine ⟨fun hinputs hrunning => ?_, fun hinputs hstopped => ?_, fun rest hinputs hrunning => ?_,
    fun rest hinputs hstopped => ?_, fun op rest hinputs => stepWith_of_host hbetween hinputs⟩
  · rw [stepWith_of_noInputs hbetween hinputs, timerFires_of_running hrunning, State.beginFrame]
  · rw [stepWith_of_noInputs hbetween hinputs, timerFires_of_stopped hstopped]
  · rw [stepWith_of_timer hbetween hinputs, timerFires_of_running (by exact hrunning)]; rfl
  · rw [stepWith_of_timer hbetween hinputs, timerFires_of_stopped (by exact hstopped), State.setInputs]

/-- The budget test fails at the budget and on a halted CPU (R134). -/
theorem budgetLeft_eq_false_iff {s : State} : budgetLeft s = false ↔ 1364 ≤ s.frameCycles ∨ s.halted = true := by
  rw [← Bool.not_eq_true, budgetLeft_iff, not_and_or, Nat.not_lt, Bool.not_eq_false]

/-- Settles O23: the step is the end of the frame, whose fields are those of `finishFrame_eq`. -/
theorem frameEndsWithOneRenderAndOneNotification : Obligations.FrameEndsWithOneRenderAndOneNotification := by
  unfold Obligations.FrameEndsWithOneRenderAndOneNotification
  intro c s hframe hspent
  refine ⟨_, stepWith_of_budgetSpent hframe (budgetLeft_eq_false_iff.2 hspent), ?_⟩
  rw [finishFrame_eq]
  refine ⟨rfl, rfl, List.append_assoc .., fun htick => ?tick, fun hstepFrame => ?stepFrame, ⟨rfl, rfl, rfl, rfl⟩, fun _ => rfl, rfl,
    rfl, rfl, rfl, rfl, rfl, rfl, rfl⟩
  case tick => cases hhalted : s.halted <;> simp [htick]
  case stepFrame => simp [hstepFrame]

/-- The end of a frame body neither reads nor changes the inputs to come (R140). -/
theorem finishFrame_setInputs (c : Config) (s : State) (inputs : List Input) :
    finishFrame c (s.setInputs inputs) = (finishFrame c s).setInputs inputs := by
  rw [finishFrame_eq, finishFrame_eq]; rfl

/-- Settles O25: an instruction and the end of a frame leave the three elements, and each commutes with a change of the inputs. -/
theorem hostActsOnlyBetweenTicks : Obligations.HostActsOnlyBetweenTicks := by
  unfold Obligations.HostActsOnlyBetweenTicks
  intro c s t hframe h
  cases hleft : budgetLeft s with
  | true =>
    rw [stepWith_of_budgetLeft hframe hleft, loopBody_of_budgetLeft hleft] at h
    obtain rfl := Host.Outcome.next.inj h
    refine ⟨s.runInstr_inputs, s.runInstr_vram, s.runInstr_pal, fun inputs => ?_⟩
    exact (stepWith_of_budgetLeft (s := s.setInputs inputs) hframe hleft).trans
      ((loopBody_of_budgetLeft (s := s.setInputs inputs) hleft).trans (congrArg _ (s.runInstr_setInputs inputs)))
  | false =>
    rw [stepWith_of_budgetSpent hframe hleft] at h
    obtain rfl := Host.Outcome.next.inj h
    have hfields := finishFrame_eq c s
    refine ⟨by rw [hfields], by rw [hfields], by rw [hfields], fun inputs => ?_⟩
    exact (stepWith_of_budgetSpent (s := s.setInputs inputs) hframe hleft).trans
      (congrArg _ (finishFrame_setInputs c s inputs))

end Sys2Proof.Machine
end

section
/-! PROOF. What no step can change: the registers no instruction uses (10_state.md R14, R15, R21), `running` and `halted` but for their
causes (10_state.md section 5), and the picture while only the timer is pending (44_ppu_raster.md section 2). -/

namespace Sys2Proof.Machine

/-- X, Y, SP and the storage bits of P are kept by whatever keeps them from a state that has them. -/
theorem KeepsPowerOnRegisters.of_same {c : Config} {s t : State} (h : KeepsPowerOnRegisters c s) (hx : t.x = s.x) (hy : t.y = s.y)
    (hsp : t.sp = s.sp) (hp : SameStorageBits s.p t.p) : KeepsPowerOnRegisters c t where
  x := hx.trans h.x
  y := hy.trans h.y
  sp := hsp.trans h.sp
  storageBits := fun i hz hn => (hp i hz hn).trans (h.storageBits i hz hn)

/-- Storage bits are the same when all of P is. -/
theorem sameStorageBits_of_eq {p q : Byte} (h : q = p) : SameStorageBits p q := fun _ _ _ => by rw [h]

/-- The timer leaves X, Y, SP and P. -/
theorem timerFires_keepsPowerOnRegisters {c : Config} {s : State} (h : KeepsPowerOnRegisters c s) :
    KeepsPowerOnRegisters c (timerFires s) := by
  rw [timerFires_eq]
  split
  next => exact h.of_same rfl rfl rfl (sameStorageBits_of_eq rfl)
  next => exact h

/-- A host operation leaves X, Y, SP and P, or sets them to the parameters (70_reset_and_hazards.md R193). -/
theorem hostCall_keepsPowerOnRegisters {c : Config} {op : HostOp} {s t : State} (h : KeepsPowerOnRegisters c s)
    (hcall : hostCall c op s = .next t) : KeepsPowerOnRegisters c t := by
  cases hostCall_cases hcall with
  | coldReset =>
    rw [coldReset_eq]
    exact ⟨rfl, rfl, rfl, sameStorageBits_of_eq rfl⟩
  | start =>
    rw [start_eq]
    split
    next => exact h
    next => exact h.of_same rfl rfl rfl (sameStorageBits_of_eq rfl)
  | stop => exact h.of_same rfl rfl rfl (sameStorageBits_of_eq rfl)
  | stepFrame =>
    split
    next => exact h
    next => exact h.of_same rfl rfl rfl (sameStorageBits_of_eq rfl)
  | other hsame => exact h.of_same hsame.x hsame.y hsame.sp (sameStorageBits_of_eq hsame.p)

/-- Settles O32: by the cases of the step; an instruction keeps the storage bits by `effectOf_sameStorageBits`. -/
theorem unusedRegistersKeepTheirPowerOnValues : Obligations.UnusedRegistersKeepTheirPowerOnValues := by
  unfold Obligations.UnusedRegistersKeepTheirPowerOnValues
  refine fun c => ⟨⟨rfl, rfl, rfl, sameStorageBits_of_eq rfl⟩, fun s t h hstep => ?_⟩
  have hinputs (rest : List Input) : KeepsPowerOnRegisters c (s.setInputs rest) :=
    h.of_same rfl rfl rfl (sameStorageBits_of_eq rfl)
  cases stepWith_cases hstep with
  | timerUnlisted => exact timerFires_keepsPowerOnRegisters h
  | timerListed rest => exact timerFires_keepsPowerOnRegisters (hinputs rest)
  | host op rest _ _ hcall => exact hostCall_keepsPowerOnRegisters (hinputs rest) hcall
  | instr => exact h.of_same s.runInstr_x s.runInstr_y s.runInstr_sp (effectOf_sameStorageBits s.fetchInstr s)
  | finish =>
    rw [finishFrame_eq]
    exact h.of_same rfl rfl rfl (sameStorageBits_of_eq rfl)

/-- The timer leaves `running`. -/
@[simp] theorem timerFires_running (s : State) : (timerFires s).running = s.running := by
  rw [timerFires_eq]
  split <;> rfl

/-- The timer leaves `halted`. -/
@[simp] theorem timerFires_halted (s : State) : (timerFires s).halted = s.halted := by
  rw [timerFires_eq]
  split <;> rfl

/-- Between ticks the timer begins a tick exactly when the scheduler is Running (R133). -/
theorem timerFires_phase_eq_inTick_iff {s : State} (hbetween : s.phase = .between) :
    (timerFires s).phase = .inTick ↔ s.running = true := by
  rw [timerFires_eq]
  split
  next h => simp [h]
  next h => simp [h, hbetween]

/-- A cold reset leaves the scheduler Stopped (70_reset_and_hazards.md R193). -/
@[simp] theorem coldReset_running (c : Config) (s : State) : (coldReset c s).running = false := by
  rw [coldReset_eq]; rfl

/-- A cold reset clears `halted` (70_reset_and_hazards.md R193). -/
@[simp] theorem coldReset_halted (c : Config) (s : State) : (coldReset c s).halted = false := by
  rw [coldReset_eq]; rfl

/-- `Start` on a CPU that is not halted sets `running` (45_frame_scheduler.md R131). -/
theorem start_of_not_halted {s : State} (h : s.halted = false) : start s = s.setRunning true := by
  rw [start_eq, if_neg (by simp [h])]

/-- `Start` on a halted CPU does nothing (45_frame_scheduler.md R131, decision D22). -/
theorem start_of_halted {s : State} (h : s.halted = true) : start s = s := if_pos h

/-- What a host operation can do to `running`: `Start` on a CPU that is not halted sets it, `Stop` and a cold reset clear it. -/
theorem hostCall_running {c : Config} {op : HostOp} {s t : State} (h : hostCall c op s = .next t) :
    (op = .start ∧ s.halted = false ∧ t.running = true) ∨ ((op = .stop ∨ op = .coldReset) ∧ t.running = false) ∨
      (¬(op = .start ∧ s.halted = false) ∧ op ≠ .stop ∧ op ≠ .coldReset ∧ t.running = s.running) := by
  cases hostCall_cases h with
  | coldReset => exact .inr (.inl ⟨.inr rfl, coldReset_running c s⟩)
  | start =>
    cases hhalted : s.halted with
    | true => exact .inr (.inr ⟨by simp, nofun, nofun, by rw [start_of_halted hhalted]⟩)
    | false => exact .inl ⟨rfl, rfl, by rw [start_of_not_halted hhalted]; rfl⟩
  | stop => exact .inr (.inl ⟨.inl rfl, rfl⟩)
  | stepFrame => exact .inr (.inr ⟨by simp, nofun, nofun, by split <;> rfl⟩)
  | other hsame hreset hstart hstop => exact .inr (.inr ⟨fun h => hstart h.1, hstop, hreset, hsame.running⟩)

/-- What a host operation can do to `halted`: a cold reset clears it, nothing else changes it. -/
theorem hostCall_halted {c : Config} {op : HostOp} {s t : State} (h : hostCall c op s = .next t) :
    (op = .coldReset ∧ t.halted = false) ∨ (op ≠ .coldReset ∧ t.halted = s.halted) := by
  cases hostCall_cases h with
  | coldReset => exact .inl ⟨rfl, coldReset_halted c s⟩
  | start => exact .inr ⟨nofun, by rw [start_eq]; split <;> rfl⟩
  | stop => exact .inr ⟨nofun, rfl⟩
  | stepFrame => exact .inr ⟨nofun, by split <;> rfl⟩
  | other hsame hreset => exact .inr ⟨hreset, hsame.halted⟩

/-- Whether a host operation is invoked, when the next input is one. -/
theorem hostInvokes_iff {op op' : HostOp} {s : State} {rest : List Input} (hbetween : s.phase = .between)
    (hinputs : s.inputs = .host op :: rest) : HostInvokes op' s ↔ op = op' := by
  simp [HostInvokes, hbetween, hinputs]

/-- No host operation is invoked inside a frame body (45_frame_scheduler.md R140). -/
theorem not_hostInvokes_of_inFrame {op : HostOp} {s : State} (h : InFrame s) : ¬HostInvokes op s :=
  fun hinvokes => h.ne_between hinvokes.1

/-- No host operation is invoked when the timer is next. -/
theorem not_hostInvokes_of_timer {op : HostOp} {s : State} (h : s.inputs = [] ∨ s.inputs.head? = some .timer) :
    ¬HostInvokes op s := by
  rintro ⟨-, hhead⟩
  rcases h with h | h <;> simp [h] at hhead

/-- The end of a frame body clears `running` at the end of a tick on a halted CPU only (45_frame_scheduler.md R136). -/
theorem finishFrame_running (c : Config) (s : State) :
    (finishFrame c s).running = if s.phase = .inTick ∧ s.halted = true then false else s.running := by
  rw [finishFrame_eq]

/-- The end of a frame body leaves `halted`. -/
@[simp] theorem finishFrame_halted (c : Config) (s : State) : (finishFrame c s).halted = s.halted := by
  rw [finishFrame_eq]

/-- Settles O30: by the cases of the step. A host operation changes `running` by `hostCall_running`, the end of a frame body by
`finishFrame_running`; the timer and an instruction leave it. -/
theorem runningChangesOnlyByItsFourCauses : Obligations.RunningChangesOnlyByItsFourCauses := by
  unfold Obligations.RunningChangesOnlyByItsFourCauses
  refine fun c => ⟨rfl, fun s t h => ?_⟩
  cases stepWith_cases h with
  | timerUnlisted hbetween hinputs =>
    have hnot {op : HostOp} : ¬HostInvokes op s := not_hostInvokes_of_timer (.inl hinputs)
    simp [hnot, hbetween, timerFires_phase_eq_inTick_iff hbetween]
  | timerListed rest hbetween hinputs =>
    have hnot {op : HostOp} : ¬HostInvokes op s := not_hostInvokes_of_timer (.inr (by rw [hinputs]; rfl))
    have hphase := timerFires_phase_eq_inTick_iff (s := s.setInputs rest) hbetween
    simp [hnot, hbetween, hphase]
  | host op rest hbetween hinputs hcall =>
    have hinvokes {op' : HostOp} := hostInvokes_iff (op' := op') hbetween hinputs
    have hrunning := hostCall_running hcall
    simp only [State.setInputs_halted, State.setInputs_running] at hrunning
    rcases hrunning with ⟨rfl, hgoing, hset⟩ | ⟨hop, hcleared⟩ | ⟨hstart, hstop, hreset, hsame⟩
    · simp [hinvokes, hbetween, hinputs, hgoing, hset]
    · rcases hop with rfl | rfl <;> simp [hinvokes, hbetween, hinputs, hcleared]
    · exact ⟨fun hstopped hset => absurd (hset.symm.trans (hsame.trans hstopped)) nofun,
        fun hrun hcleared => absurd (hcleared.symm.trans (hsame.trans hrun)) nofun,
        fun hi hgoing => absurd ⟨hinvokes.1 hi, hgoing⟩ hstart,
        fun hi => absurd (hi.imp hinvokes.1 hinvokes.1) (not_or.2 ⟨hstop, hreset⟩),
        fun htick => absurd (hbetween.symm.trans htick) nofun, fun _ htimer => by simp [hinputs] at htimer⟩
  | instr hframe hleft =>
    have hnot {op : HostOp} : ¬HostInvokes op s := not_hostInvokes_of_inFrame hframe
    simp [hnot, hframe.ne_between, (budgetLeft_iff.1 hleft).2]
  | finish hframe hspent =>
    have hnot {op : HostOp} : ¬HostInvokes op s := not_hostInvokes_of_inFrame hframe
    rw [finishFrame_running]
    by_cases hstops : s.phase = .inTick ∧ s.halted = true
    · simp [hnot, hstops]
    · simp +contextual [hnot, hstops, hframe.ne_between]

/-- Only BRK halts the CPU (42_cpu_control.md R102). -/
theorem read_pc_of_runInstr_halted {s : State} (h : s.halted = false) (hhalts : s.runInstr.halted = true) :
    s.read s.pc = 0x00#8 := by
  rw [State.runInstr, State.addCycles_halted] at hhalts
  obtain ⟨-, -, -, hbrk, -⟩ := executeReachesOnlyItsOwnState s _ _ (execute_of_not_halted h)
  exact hbrk (by rw [hhalts, h]; exact nofun)

/-- Settles O31: by the cases of the step. A host operation changes `halted` by `hostCall_halted`, an instruction only when BRK stands
at PC; the timer and the end of a frame body leave it. -/
theorem haltedChangesOnlyByBrkAndColdReset : Obligations.HaltedChangesOnlyByBrkAndColdReset := by
  unfold Obligations.HaltedChangesOnlyByBrkAndColdReset
  refine fun c => ⟨rfl, fun s t h => ?_⟩
  cases stepWith_cases h with
  | timerUnlisted hbetween hinputs =>
    have hnot {op : HostOp} : ¬HostInvokes op s := not_hostInvokes_of_timer (.inl hinputs)
    simp +contextual [hnot]
  | timerListed rest hbetween hinputs =>
    have hnot {op : HostOp} : ¬HostInvokes op s := not_hostInvokes_of_timer (.inr (by rw [hinputs]; rfl))
    simp +contextual [hnot]
  | host op rest hbetween hinputs hcall =>
    rw [hostInvokes_iff hbetween hinputs]
    rcases hostCall_halted hcall with ⟨rfl, hcleared⟩ | ⟨hreset, hsame⟩
    · simp [hcleared]
    · simp +contextual [hreset, hsame]
  | instr hframe hleft =>
    obtain ⟨hcycles, hgoing⟩ := budgetLeft_iff.1 hleft
    have hnot {op : HostOp} : ¬HostInvokes op s := not_hostInvokes_of_inFrame hframe
    exact ⟨fun _ hhalts => ⟨hframe, hcycles, read_pc_of_runInstr_halted hgoing hhalts⟩, by simp [hgoing],
      fun hinvokes => absurd hinvokes hnot⟩
  | finish hframe hspent =>
    have hnot {op : HostOp} : ¬HostInvokes op s := not_hostInvokes_of_inFrame hframe
    simp +contextual [hnot]

/-- The timer leaves `Vram` and `Pal` and the inputs. -/
theorem timerFires_picture (s : State) :
    (timerFires s).vram = s.vram ∧ (timerFires s).pal = s.pal ∧ (timerFires s).inputs = s.inputs := by
  rw [timerFires_eq]
  split <;> exact ⟨rfl, rfl, rfl⟩

/-- Settles O55: by the cases of the step, of which a host operation is none here; the end of a frame body emits the frame of its own
`Vram` and `Pal`, the others emit nothing. -/
theorem timerOnlyStepsKeepThePicture : Obligations.TimerOnlyStepsKeepThePicture := by
  unfold Obligations.TimerOnlyStepsKeepThePicture
  intro c s t htimer h
  cases stepWith_cases h with
  | timerUnlisted =>
    obtain ⟨hvram, hpal, hinputs⟩ := timerFires_picture s
    exact ⟨hinputs ▸ htimer, hvram, hpal, .inl (timerFires_output s)⟩
  | timerListed rest _ hlisted =>
    obtain ⟨hvram, hpal, hinputs⟩ := timerFires_picture (s.setInputs rest)
    refine ⟨fun i hi => htimer i ?_, hvram, hpal, .inl (timerFires_output _)⟩
    rw [hlisted]
    exact List.mem_cons_of_mem _ (by rwa [hinputs] at hi)
  | host op rest _ hlisted => exact absurd (htimer (.host op) (by simp [hlisted])) nofun
  | instr => exact ⟨s.runInstr_inputs ▸ htimer, s.runInstr_vram, s.runInstr_pal, .inl s.runInstr_output⟩
  | finish =>
    rw [finishFrame_eq]
    exact ⟨htimer, rfl, rfl, .inr ⟨_, List.append_assoc ..⟩⟩

end Sys2Proof.Machine
end

section
/-! PROOF. Runs with no input pending: none of their steps is refused (60_exceptions.md section 1), and the picture stays (44_ppu_raster.md
section 2). -/

namespace Sys2Proof.Machine

/-- What is not between ticks is inside a frame body. -/
theorem inFrame_of_ne_between {s : State} (h : s.phase ≠ .between) : InFrame s := by
  unfold InFrame
  cases hphase : s.phase with
  | between => exact absurd hphase h
  | inTick => exact .inl rfl
  | inStepFrame => exact .inr rfl

/-- With no input pending a step answers a next state, with no input pending again. -/
theorem stepWith_noInputs {c : Config} {s : State} (h : s.inputs = []) : ∃ t, stepWith c s = .next t ∧ t.inputs = [] := by
  by_cases hbetween : s.phase = .between
  · exact ⟨_, stepWith_of_noInputs hbetween h, (timerFires_picture s).2.2.trans h⟩
  · have hframe : InFrame s := inFrame_of_ne_between hbetween
    cases hleft : budgetLeft s with
    | true =>
      exact ⟨_, (stepWith_of_budgetLeft hframe hleft).trans (loopBody_of_budgetLeft hleft), s.runInstr_inputs.trans h⟩
    | false => exact ⟨_, stepWith_of_budgetSpent hframe hleft, by rw [finishFrame_eq]; exact h⟩

/-- Settles O29: by induction on the number of steps, each of which answers and leaves no input pending. -/
theorem runsWithoutHostInputsAreSafe : Obligations.RunsWithoutHostInputsAreSafe := by
  unfold Obligations.RunsWithoutHostInputsAreSafe
  intro c n s h
  induction n generalizing s with
  | zero => exact ⟨s, runSteps_zero c s⟩
  | succ n ih =>
    obtain ⟨t, hstep, ht⟩ := stepWith_noInputs (c := c) h
    obtain ⟨u, hrun⟩ := ih t ht
    exact ⟨u, (runSteps_succ_of_next hstep).trans hrun⟩

/-- Settles O40: by induction on the number of steps; every step is one of O55, with no input pending after it. -/
theorem everyFrameOfAnUninterruptedRunIsIdentical : Obligations.EveryFrameOfAnUninterruptedRunIsIdentical := by
  unfold Obligations.EveryFrameOfAnUninterruptedRunIsIdentical
  intro c n s t h hrun
  induction n generalizing s with
  | zero =>
    obtain rfl := Host.Outcome.next.inj hrun
    exact ⟨rfl, rfl, [], (List.append_nil _).symm, fun fb hfb => absurd hfb (List.not_mem_nil)⟩
  | succ n ih =>
    obtain ⟨u, hstep, hinputs⟩ := stepWith_noInputs (c := c) h
    obtain ⟨-, hvram, hpal, houtput⟩ := timerOnlyStepsKeepThePicture c s u (by simp [h]) hstep
    obtain ⟨hvram', hpal', new, hnew, hframes⟩ := ih u hinputs ((runSteps_succ_of_next hstep).symm.trans hrun)
    rw [hvram, hpal] at hframes
    refine ⟨hvram'.trans hvram, hpal'.trans hpal, ?_⟩
    rcases houtput with hsilent | ⟨registers, hemitted⟩
    · exact ⟨new, by rw [hnew, hsilent], hframes⟩
    · refine ⟨[.frame (renderedFb c s.vram s.pal), .notify registers] ++ new, by rw [hnew, hemitted, List.append_assoc], ?_⟩
      intro fb hfb
      rcases List.mem_append.1 hfb with hfirst | hlater
      · simpa using hfirst
      · exact hframes fb hlater

end Sys2Proof.Machine
end

section
/-! PROOF. The machine's invariant (10_state.md section 6, 45_frame_scheduler.md sections 1 and 4): power-on has it, and each kind of step
keeps it. -/

namespace Sys2Proof.Machine

/-- The memories and the palette have the shape of the machine's: canonical, inside their spaces, of the configured size. -/
structure MemoriesFit (c : Config) (mem vram : List Host.Cell) (pal : List Rgb) : Prop where
  mem : Memory.wf Config.memSize mem = true
  vram : Memory.wf Config.vramSize vram = true
  pal : pal.length = c.paletteSize

/-- An image has the shape a configuration is asked for exactly when its parts fit. -/
theorem imageShaped_iff (c : Config) : c.imageShaped = true ↔ MemoriesFit c c.image.mem c.image.vram c.image.pal := by
  simp only [Config.imageShaped, Bool.and_eq_true, decide_eq_true_eq]
  exact ⟨fun ⟨⟨hmem, hvram⟩, hpal⟩ => ⟨hmem, hvram, hpal⟩, fun ⟨hmem, hvram, hpal⟩ => ⟨⟨hmem, hvram⟩, hpal⟩⟩

/-- The power-on memories fit (10_state.md R28, R29, R30). -/
theorem memoriesFit_powerOn (c : Config) : MemoriesFit c (State.powerOn c).mem (State.powerOn c).vram (State.powerOn c).pal :=
  ⟨rfl, rfl, List.length_replicate⟩

/-- Every host operation but a cold reset keeps the memories fitting (46_host_interface.md R151 to R155). -/
theorem hostCall_memoriesFit {c : Config} {op : HostOp} {s t : State} (htilemap : c.tilemapFits = true)
    (hfit : MemoriesFit c s.mem s.vram s.pal) (hop : op ≠ .coldReset) (h : hostCall c op s = .next t) :
    MemoriesFit c t.mem t.vram t.pal := by
  have hleads := hostCall_next h
  cases op with
  | loadProgram bytes origin =>
    obtain ⟨-, -, rfl⟩ := hleads
    rw [State.writeAll_eq]
    exact ⟨State.writeAll_wf s hfit.mem, hfit.vram, hfit.pal⟩
  | setResetVector address =>
    obtain ⟨-, rfl⟩ := hleads
    exact ⟨State.writeWord_wf s hfit.mem, hfit.vram, hfit.pal⟩
  | loadTiles bytes =>
    obtain ⟨-, hlength, rfl⟩ := hleads
    exact ⟨hfit.mem, Memory.wf_writeBytes hfit.vram (by simpa using hlength), hfit.pal⟩
  | loadTileMap bytes =>
    obtain ⟨-, hlength, rfl⟩ := hleads
    have hinside : c.tilemapBase + 896 ≤ 32768 := of_decide_eq_true htilemap
    exact ⟨hfit.mem, Memory.wf_writeBytes hfit.vram (by simp only [Config.vramSize] at hlength ⊢; omega), hfit.pal⟩
  | setPalette colors =>
    obtain ⟨-, hlength, rfl⟩ := hleads
    refine ⟨hfit.mem, hfit.vram, ?_⟩
    have hpal := hfit.pal
    rw [State.setPal_pal, List.length_append, List.length_drop]
    omega
  | warmReset => obtain ⟨-, rfl⟩ := hleads; exact hfit
  | coldReset => exact absurd rfl hop
  | start => obtain rfl := hleads; rw [start_eq]; split <;> exact hfit
  | stop => obtain rfl := hleads; exact hfit
  | snapshotRegisters => obtain rfl := hleads; exact hfit
  | disassembleWindow center radius => obtain rfl := hleads; exact hfit
  | stepFrame => obtain ⟨-, rfl⟩ := hleads; split <;> exact hfit

namespace Inv

variable {c : Config} {s t : State}

/-- The invariant says that the memories fit. -/
theorem memoriesFit (h : Inv c s) : MemoriesFit c s.mem s.vram s.pal := ⟨h.memCanonical, h.vramCanonical, h.palSize⟩

/-- The invariant does not speak of PC, and of the memories only that they fit. -/
theorem of_sameButPcAndMemories (h : Inv c s) (hsame : SameButPcAndMemories s t) (hfit : MemoriesFit c t.mem t.vram t.pal) :
    Inv c t where
  memCanonical := hfit.mem
  vramCanonical := hfit.vram
  palSize := hfit.pal
  fbCanonical := hsame.fb ▸ h.fbCanonical
  fbInside := hsame.fb ▸ h.fbInside
  tickRuns := hsame.phase ▸ hsame.running ▸ h.tickRuns
  stepFrameStopped := hsame.phase ▸ hsame.running ▸ h.stepFrameStopped
  haltStops := hsame.phase ▸ hsame.halted ▸ hsame.running ▸ h.haltStops
  frameBound := hsame.frameCycles ▸ h.frameBound
  frameBoundGoing := hsame.halted ▸ hsame.frameCycles ▸ h.frameBoundGoing
  framesCounted := hsame.frameCycles ▸ hsame.totalCycles ▸ h.framesCounted
  eventsPaired := hsame.output ▸ h.eventsPaired
  fbShown := hsame.fb ▸ hsame.output ▸ h.fbShown

/-- The invariant does not speak of the inputs to come. -/
theorem setInputs (h : Inv c s) (inputs : List Input) : Inv c (s.setInputs inputs) := { h with }

/-- A frame body that begins in the scheduler's state for it, with `frame_cycles` 0, keeps the invariant. -/
theorem beginFrame (h : Inv c s) {phase : Phase} (htick : phase = .inTick → s.running = true)
    (hstepFrame : phase = .inStepFrame → s.running = false) (hframe : phase ≠ .between) : Inv c (s.beginFrame phase) :=
  { h with
    tickRuns := htick
    stepFrameStopped := hstepFrame
    haltStops := fun hbetween => absurd hbetween hframe
    frameBound := Nat.zero_le _
    frameBoundGoing := fun _ => Nat.zero_le _
    framesCounted := Nat.zero_le _ }

/-- The timer keeps the invariant. -/
theorem timerFires (h : Inv c s) : Inv c (timerFires s) := by
  rw [timerFires_eq]
  split
  next hrunning => exact h.beginFrame (fun _ => hrunning) nofun nofun
  next => exact h

/-- Between ticks the invariant only asks of `running` that a halted machine is Stopped. -/
theorem setRunning (h : Inv c s) (hbetween : s.phase = .between) {b : Bool} (hb : s.halted = true → b = false) :
    Inv c (s.setRunning b) :=
  { h with
    tickRuns := fun htick => absurd (hbetween.symm.trans htick) nofun
    stepFrameStopped := fun hstepFrame => absurd (hbetween.symm.trans hstepFrame) nofun
    haltStops := fun _ => hb }

/-- Cold reset gives the invariant under an admitted configuration, whatever the state was: only the events emitted stay, and those
paired. -/
theorem coldReset (hshaped : c.imageShaped = true) (h : Inv c s) : Inv c (coldReset c s) := by
  have hfit := (imageShaped_iff c).1 hshaped
  rw [coldReset_eq]
  exact
    { memCanonical := hfit.mem
      vramCanonical := hfit.vram
      palSize := hfit.pal
      fbCanonical := rfl
      fbInside := nofun
      tickRuns := nofun
      stepFrameStopped := nofun
      haltStops := nofun
      frameBound := Nat.zero_le _
      frameBoundGoing := fun _ => Nat.zero_le _
      framesCounted := Nat.le_refl _
      eventsPaired := h.eventsPaired
      fbShown := .inl rfl }

/-- Every host operation invoked between ticks keeps the invariant. -/
theorem hostCall {op : HostOp} (hadmitted : c.tilemapFits = true ∧ c.imageShaped = true) (h : Inv c s)
    (hbetween : s.phase = .between) (hcall : hostCall c op s = .next t) : Inv c t := by
  obtain ⟨htilemap, hshaped⟩ := hadmitted
  cases hostCall_cases hcall with
  | coldReset => exact h.coldReset hshaped
  | start =>
    cases hhalted : s.halted with
    | true => rwa [start_of_halted hhalted]
    | false =>
      rw [start_of_not_halted hhalted]
      exact h.setRunning hbetween (by simp [hhalted])
  | stop => exact h.setRunning hbetween fun _ => rfl
  | stepFrame hstopped =>
    split
    next => exact h
    next => exact h.beginFrame nofun (fun _ => hstopped) nofun
  | other hsame hreset => exact h.of_sameButPcAndMemories hsame (hostCall_memoriesFit htilemap h.memoriesFit hreset hcall)

end Inv

/-- Only BRK costs more than 4 cycles, and it halts; every other instruction leaves `halted` (30_encoding.md R64,
45_frame_scheduler.md R142). -/
theorem cycleCost_of_effectOf_halted (i : Instr) (s : State) (h : s.halted = false) :
    ((effectOf i s).halted = true ∧ cycleCost i = 7) ∨ ((effectOf i s).halted = false ∧ cycleCost i ≤ 4) := by
  cases i with
  | brk => exact .inl ⟨rfl, rfl⟩
  | ldaImm imm8 => exact .inr ⟨h, (by decide : 2 ≤ 4)⟩
  | ldaAbs addr => exact .inr ⟨h, (by decide : 4 ≤ 4)⟩
  | staAbs addr => exact .inr ⟨h, (by decide : 4 ≤ 4)⟩
  | jmpAbs addr => exact .inr ⟨h, (by decide : 3 ≤ 4)⟩
  | nop => exact .inr ⟨h, (by decide : 2 ≤ 4)⟩
  | undef op => exact .inr ⟨h, (by decide : 0 ≤ 4)⟩

/-- The same of one pass of the budget loop. -/
theorem runInstr_halted_cost {s : State} (h : s.halted = false) :
    (s.runInstr.halted = true ∧ cycleCost s.fetchInstr = 7) ∨ (s.runInstr.halted = false ∧ cycleCost s.fetchInstr ≤ 4) :=
  cycleCost_of_effectOf_halted s.fetchInstr s h

/-- No instruction breaks the canonical form of `Mem` (log 16). -/
theorem effectOf_mem_wf (i : Instr) {s : State} (h : Memory.wf Config.memSize s.mem = true) :
    Memory.wf Config.memSize (effectOf i s).mem = true := by
  cases i with
  | staAbs addr => exact State.write_wf _ h
  | ldaImm imm8 => exact h
  | ldaAbs addr => exact h
  | jmpAbs addr => exact h
  | nop => exact h
  | brk => exact h
  | undef op => exact h

/-- With budget left one pass of the budget loop keeps the invariant. -/
theorem Inv.runInstr {c : Config} {s : State} (h : Inv c s) (hframe : InFrame s) (hleft : budgetLeft s = true) :
    Inv c s.runInstr := by
  obtain ⟨hcycles, hgoing⟩ := budgetLeft_iff.1 hleft
  have hcost := runInstr_halted_cost hgoing
  have hcounted := h.framesCounted
  exact
    { memCanonical := effectOf_mem_wf s.fetchInstr h.memCanonical
      vramCanonical := s.runInstr_vram ▸ h.vramCanonical
      palSize := s.runInstr_pal ▸ h.palSize
      fbCanonical := s.runInstr_fb ▸ h.fbCanonical
      fbInside := s.runInstr_fb ▸ h.fbInside
      tickRuns := s.runInstr_phase ▸ s.runInstr_running ▸ h.tickRuns
      stepFrameStopped := s.runInstr_phase ▸ s.runInstr_running ▸ h.stepFrameStopped
      haltStops := fun hbetween => absurd (s.runInstr_phase ▸ hbetween) hframe.ne_between
      frameBound := by rw [State.runInstr_frameCycles]; omega
      frameBoundGoing := fun hstill => by
        rw [State.runInstr_frameCycles]
        rcases hcost with ⟨hhalts, -⟩ | ⟨-, hcheap⟩
        · exact absurd (hhalts.symm.trans hstill) nofun
        · omega
      framesCounted := by rw [State.runInstr_frameCycles, State.runInstr_totalCycles]; omega
      eventsPaired := s.runInstr_output ▸ h.eventsPaired
      fbShown := s.runInstr_fb ▸ s.runInstr_output ▸ h.fbShown }

/-- Paired events and one more pair are paired events. -/
theorem pairedEvents_append {events : List Event} (h : pairedEvents events = true) (fb : List (Nat × Rgb))
    (registers : Snapshot) : pairedEvents (events ++ [.frame fb] ++ [.notify registers]) = true := by
  induction events using pairedEvents.induct with
  | case1 => rfl
  | case2 fb' registers' rest ih => exact ih h
  | case3 => cases h
  | case4 => cases h
  | case5 => cases h

/-- The last frame of a list of events that ends with a pair is that pair's. -/
theorem lastFrame_append (events : List Event) (fb : List (Nat × Rgb)) (registers : Snapshot) :
    lastFrame (events ++ [.frame fb] ++ [.notify registers]) = some fb := by
  rw [lastFrame, List.foldl_append, List.foldl_append]
  rfl

/-- Every pixel a frame paints is one of the 224 rows of 256 (44_ppu_raster.md R120, R122). -/
theorem lt_of_mem_framePaints {c : Config} {vram : List Host.Cell} {pal : List Rgb} {e : Nat × Rgb}
    (h : e ∈ framePaints c vram pal) : e.1 < Config.screenW * Config.screenH := by
  obtain ⟨row, hrow, col, hcol, r, hr, k, hk, -, hkey⟩ := mem_framePaints.1 h
  simp only [Config.mapRows, Config.mapCols, Config.tileH, Config.tileW, Config.screenW, Config.screenH, pixelKey] at *
  omega

/-- The end of a frame body keeps the invariant: `FB` is drawn anew and shown, and a halted CPU stops the scheduler. -/
theorem Inv.finishFrame {c : Config} {s : State} (h : Inv c s) (hframe : InFrame s) : Inv c (finishFrame c s) := by
  rw [finishFrame_eq]
  exact
    { h with
      fbCanonical := risingFrom_paintAll rfl
      fbInside := fun e he => lt_of_mem_framePaints ((mem_paintAll he).resolve_left List.not_mem_nil)
      tickRuns := nofun
      stepFrameStopped := nofun
      haltStops := fun _ hhalted => by
        rcases hframe with htick | hstepFrame
        · exact if_pos ⟨htick, hhalted⟩
        · exact (if_neg (by simp [hstepFrame])).trans (h.stepFrameStopped hstepFrame)
      eventsPaired := pairedEvents_append h.eventsPaired _ _
      fbShown := .inr (lastFrame_append _ _ _) }

/-- What admission asks of a configuration (43_ppu_tile_decode.md R114; log 19). -/
theorem admitted_iff (c : Config) :
    c.admitted = true ↔ c.tilemapFits = true ∧ c.paletteLargeEnough = true ∧ c.imageShaped = true := by
  simp only [Config.admitted, Bool.and_eq_true, and_assoc]

/-- Every step under an admitted configuration keeps the invariant. -/
theorem Inv.stepWith {c : Config} {s t : State} (hadmitted : c.admitted = true) (h : Inv c s) (hstep : stepWith c s = .next t) :
    Inv c t := by
  obtain ⟨htilemap, -, hshaped⟩ := (admitted_iff c).1 hadmitted
  cases stepWith_cases hstep with
  | timerUnlisted => exact h.timerFires
  | timerListed rest => exact (h.setInputs rest).timerFires
  | host op rest hbetween _ hcall => exact (h.setInputs rest).hostCall ⟨htilemap, hshaped⟩ hbetween hcall
  | instr hframe hleft => exact h.runInstr hframe hleft
  | finish hframe => exact h.finishFrame hframe

/-- Settles O34: by the cases of the step, each a lemma of its own; the default configuration is admitted. -/
theorem everyStepKeepsTheInvariant : Obligations.EveryStepKeepsTheInvariant := by
  unfold Obligations.EveryStepKeepsTheInvariant
  have hdefault : Config.default.admitted = true := by decide
  exact ⟨fun _ _ _ hadmitted h hstep => h.stepWith hadmitted hstep, fun _ _ h hstep => h.stepWith hdefault hstep⟩

/-- Power-on has the invariant. -/
theorem inv_powerOn (c : Config) : Inv c (State.powerOn c) where
  memCanonical := rfl
  vramCanonical := rfl
  palSize := List.length_replicate
  fbCanonical := rfl
  fbInside := nofun
  tickRuns := nofun
  stepFrameStopped := nofun
  haltStops := nofun
  frameBound := Nat.zero_le _
  frameBoundGoing := fun _ => Nat.zero_le _
  framesCounted := Nat.le_refl _
  eventsPaired := rfl
  fbShown := .inl rfl

/-- Settles O33: the reset state is power-on under the default configuration. -/
theorem powerOnSatisfiesTheInvariant : Obligations.PowerOnSatisfiesTheInvariant := by
  unfold Obligations.PowerOnSatisfiesTheInvariant
  exact ⟨inv_powerOn, inv_powerOn Config.default⟩

end Sys2Proof.Machine
end

section
/-! PROOF. The budget loop (45_frame_scheduler.md R133, R134): its equations, the cycles of a frame that ends (R142), and when it never
ends (R141). -/

namespace Sys2Proof.Machine

/-- With no budget left the loop ends where it stands. -/
theorem budgetLoop_of_spent {s : State} (h : budgetLeft s = false) (fuel : Nat) : budgetLoop fuel s = some s := by
  cases fuel <;> simp [budgetLoop, h]

/-- With budget left the loop does not end within no instructions. -/
theorem budgetLoop_zero_of_left {s : State} (h : budgetLeft s = true) : budgetLoop 0 s = none := if_pos h

/-- With budget left the loop goes on after one instruction. -/
theorem budgetLoop_succ_of_left {s : State} (h : budgetLeft s = true) (fuel : Nat) :
    budgetLoop (fuel + 1) s = budgetLoop fuel s.runInstr := by
  rw [budgetLoop, if_pos h, loopBody_of_budgetLeft h]

/-- What a budget loop that ends can do: it has made one pass, or it ends where it stands. -/
theorem budgetLoop_some {fuel : Nat} {s u : State} (h : budgetLoop fuel s = some u) :
    (budgetLeft s = true ∧ ∃ fuel', fuel = fuel' + 1 ∧ budgetLoop fuel' s.runInstr = some u) ∨ (budgetLeft s = false ∧ u = s) := by
  cases hleft : budgetLeft s with
  | false =>
    rw [budgetLoop_of_spent hleft] at h
    exact .inr ⟨rfl, (Option.some.inj h).symm⟩
  | true =>
    cases fuel with
    | zero => rw [budgetLoop_zero_of_left hleft] at h; cases h
    | succ fuel => exact .inl ⟨rfl, fuel, rfl, (budgetLoop_succ_of_left hleft fuel).symm.trans h⟩

/-- The loop's induction: what holds at its start and is kept by every pass with budget left holds at its end, where no budget is left. -/
theorem budgetLoop_induction {P : State → Prop} (hkept : ∀ v, budgetLeft v = true → P v → P v.runInstr) {fuel : Nat} {s u : State}
    (hs : P s) (h : budgetLoop fuel s = some u) : P u ∧ budgetLeft u = false := by
  induction fuel using Nat.strong_induction_on generalizing s with
  | _ fuel ih =>
    rcases budgetLoop_some h with ⟨hleft, fuel', rfl, hloop⟩ | ⟨hspent, rfl⟩
    · exact ih fuel' (Nat.lt_succ_self _) (hkept s hleft hs) hloop
    · exact ⟨hs, hspent⟩

/-- The cycles counted so far in a frame body that began on a CPU not halted, `total` being `total_cycles` then (R134, R142). -/
structure FrameCyclesBounded (total : Nat) (s : State) : Prop where
  counted : s.totalCycles = total + s.frameCycles
  going : s.halted = false → s.frameCycles ≤ 1367
  halts : s.halted = true → 7 ≤ s.frameCycles ∧ s.frameCycles ≤ 1370

/-- One pass of the budget loop keeps the bounds: with budget left there are fewer than 1364 cycles before it, and only BRK adds more
than 4. -/
theorem FrameCyclesBounded.runInstr {total : Nat} {s : State} (hleft : budgetLeft s = true) (h : FrameCyclesBounded total s) :
    FrameCyclesBounded total s.runInstr := by
  obtain ⟨hcycles, hgoing⟩ := budgetLeft_iff.1 hleft
  have hcounted := h.counted
  have hcounted' : s.runInstr.totalCycles = total + s.runInstr.frameCycles := by
    rw [State.runInstr_totalCycles, State.runInstr_frameCycles]
    omega
  rcases runInstr_halted_cost hgoing with ⟨hhalts, hcost⟩ | ⟨hstill, hcost⟩
  · exact ⟨hcounted', fun hstill => absurd (hhalts.symm.trans hstill) nofun, fun _ => by rw [State.runInstr_frameCycles]; omega⟩
  · exact ⟨hcounted', fun _ => by rw [State.runInstr_frameCycles]; omega, fun hhalts => absurd (hstill.symm.trans hhalts) nofun⟩

/-- Settles O28: the bounds hold when the frame body begins, by the loop's induction at the loop's end, and the end of the frame leaves
the counters; that no budget is left gives 1364. -/
theorem finishedTickCyclesAreBounded : Obligations.FinishedTickCyclesAreBounded := by
  unfold Obligations.FinishedTickCyclesAreBounded
  intro c fuel s t hgoing htick
  obtain ⟨-, hframe⟩ := tick_some htick
  obtain ⟨u, hloop, rfl⟩ := frameBody_some hframe
  have hbegin : FrameCyclesBounded s.totalCycles (s.beginFrame .inTick) :=
    ⟨rfl, fun _ => Nat.zero_le _, fun hhalts => absurd (hgoing.symm.trans hhalts) nofun⟩
  obtain ⟨hbounds, hspent⟩ := budgetLoop_induction (fun _ hleft h => h.runInstr hleft) hbegin hloop
  rw [finishFrame_eq]
  refine ⟨hbounds.counted, fun hstill => ⟨?_, hbounds.going hstill⟩, hbounds.halts⟩
  rcases budgetLeft_eq_false_iff.1 hspent with hbudget | hhalts
  · exact hbudget
  · exact absurd (hhalts.symm.trans hstill) nofun

/-- The budget loop never ends (R141). -/
def Hangs (s : State) : Prop := ∀ fuel, budgetLoop fuel s = none

/-- The loop never ends exactly when budget is left and it never ends after one instruction. -/
theorem hangs_iff {s : State} : Hangs s ↔ budgetLeft s = true ∧ Hangs s.runInstr := by
  cases hleft : budgetLeft s with
  | false =>
    refine ⟨fun h => ?_, nofun⟩
    have := (budgetLoop_of_spent hleft 0).symm.trans (h 0)
    cases this
  | true =>
    refine ⟨fun h => ⟨rfl, fun fuel => (budgetLoop_succ_of_left hleft fuel).symm.trans (h (fuel + 1))⟩, fun ⟨_, h⟩ fuel => ?_⟩
    cases fuel with
    | zero => exact budgetLoop_zero_of_left hleft
    | succ fuel => exact (budgetLoop_succ_of_left hleft fuel).trans (h fuel)

/-- With budget left, some instructions of the loop are the first of them and then the others. -/
theorem loopAfter_succ_of_left {s : State} (h : budgetLeft s = true) (k : Nat) :
    loopAfter (k + 1) s = loopAfter k s.runInstr := by
  rw [loopAfter, if_pos h, loopBody_of_budgetLeft h]

/-- With no budget left there is no further instruction of the loop. -/
theorem loopAfter_succ_of_spent {s : State} (h : budgetLeft s = false) (k : Nat) : loopAfter (k + 1) s = none := by
  rw [loopAfter, if_neg (by simp [h])]

/-- `k + j` instructions of the loop are `k` and then `j`. -/
theorem loopAfter_add {k j : Nat} {s u : State} (h : loopAfter k s = some u) : loopAfter (k + j) s = loopAfter j u := by
  induction k generalizing s with
  | zero =>
    obtain rfl := Option.some.inj h
    rw [Nat.zero_add]
  | succ k ih =>
    cases hleft : budgetLeft s with
    | true =>
      rw [loopAfter_succ_of_left hleft] at h
      rw [Nat.add_right_comm, loopAfter_succ_of_left hleft, ih h]
    | false => rw [loopAfter_succ_of_spent hleft] at h; cases h

/-- A loop that never ends after some of its instructions never ends. -/
theorem hangs_of_loopAfter {k : Nat} {s u : State} (h : loopAfter k s = some u) (hu : Hangs u) : Hangs s := by
  induction k generalizing s with
  | zero =>
    obtain rfl := Option.some.inj h
    exact hu
  | succ k ih =>
    cases hleft : budgetLeft s with
    | true => exact hangs_iff.2 ⟨hleft, ih ((loopAfter_succ_of_left hleft k).symm.trans h)⟩
    | false => rw [loopAfter_succ_of_spent hleft] at h; cases h

/-- An undefined opcode at PC moves PC one byte on and costs nothing (42_cpu_control.md R103). -/
theorem runInstr_of_undefined {s : State} (h : s.read s.pc ∉ definedOpcodes) : s.runInstr = s.setPc (s.pc + 1#16) := by
  rw [State.runInstr, fetchInstr_of_undefined h]
  rfl

/-- A defined opcode at PC costs something (30_encoding.md R64). -/
theorem cycleCost_pos_of_defined {s : State} (h : s.read s.pc ∈ definedOpcodes) : 0 < cycleCost s.fetchInstr := by
  have hrow := fetchInstr_cases s
  generalize s.fetchInstr = i at hrow
  cases hrow with
  | ldaImm => exact (by decide : 0 < 2)
  | ldaAbs => exact (by decide : 0 < 4)
  | staAbs => exact (by decide : 0 < 4)
  | jmpAbs => exact (by decide : 0 < 3)
  | nop => exact (by decide : 0 < 2)
  | brk => exact (by decide : 0 < 7)
  | undef hundef => exact absurd ((mem_definedOpcodes_iff _).1 h) hundef

/-- No byte of `Mem` is one of the six defined opcodes. -/
def UndefinedMemory (s : State) : Prop := ∀ b : Addr, s.read b ∉ definedOpcodes

/-- With budget left over a memory without a defined opcode the loop never ends: PC moves on for ever. -/
theorem hangs_of_undefinedMemory {s : State} (hleft : budgetLeft s = true) (h : UndefinedMemory s) : Hangs s := by
  intro fuel
  induction fuel generalizing s with
  | zero => exact budgetLoop_zero_of_left hleft
  | succ fuel ih =>
    rw [budgetLoop_succ_of_left hleft, runInstr_of_undefined (h s.pc)]
    exact ih hleft h

/-- A loop that never ends meets no defined opcode in the `n` bytes from PC on, or counts a cycle at some point. -/
theorem undefined_from_pc_or_progress {s : State} (h : Hangs s) (n : Nat) :
    (∀ i < n, s.read (s.pc + BitVec.ofNat 16 i) ∉ definedOpcodes) ∨
      ∃ k u, loopAfter k s = some u ∧ Hangs u ∧ s.frameCycles < u.frameCycles := by
  induction n generalizing s with
  | zero => exact .inl nofun
  | succ n ih =>
    obtain ⟨hleft, hnext⟩ := hangs_iff.1 h
    by_cases hopcode : s.read s.pc ∈ definedOpcodes
    · refine .inr ⟨1, s.runInstr, loopAfter_succ_of_left hleft 0, hnext, ?_⟩
      have := cycleCost_pos_of_defined hopcode
      rw [State.runInstr_frameCycles]
      omega
    · rcases ih hnext with hundef | ⟨k, u, hafter, hu, hcycles⟩
      · rw [runInstr_of_undefined hopcode] at hundef
        refine .inl fun i hi => ?_
        cases i with
        | zero => rwa [BitVec.add_zero]
        | succ i =>
          have hstep : s.pc + 1#16 + BitVec.ofNat 16 i = s.pc + BitVec.ofNat 16 (i + 1) := by
            rw [BitVec.add_assoc, ← BitVec.ofNat_add, Nat.add_comm]
          exact hstep ▸ hundef i (by omega)
      · refine .inr ⟨k + 1, u, (loopAfter_succ_of_left hleft k).trans hafter, hu, ?_⟩
        rw [State.runInstr_frameCycles] at hcycles
        omega

/-- When no byte from PC on, all around `Mem`, is a defined opcode, no byte of `Mem` is. -/
theorem undefinedMemory_of_from_pc {s : State} (h : ∀ i < 65536, s.read (s.pc + BitVec.ofNat 16 i) ∉ definedOpcodes) :
    UndefinedMemory s := by
  intro b
  have hb : s.pc + BitVec.ofNat 16 (b - s.pc).toNat = b := by
    rw [BitVec.ofNat_toNat, BitVec.setWidth_eq, BitVec.add_comm, BitVec.sub_add_cancel]
  exact hb ▸ h _ (b - s.pc).isLt

/-- A loop that never ends comes, with budget left, to a memory without a defined opcode: until then it counts a cycle in every 65536
instructions, of which the budget allows fewer than 1364. -/
theorem exists_undefinedMemory_of_hangs {s : State} (h : Hangs s) :
    ∃ k u, loopAfter k s = some u ∧ budgetLeft u = true ∧ UndefinedMemory u := by
  induction hrest : 1364 - s.frameCycles using Nat.strong_induction_on generalizing s with
  | _ rest ih =>
    have hleft := (hangs_iff.1 h).1
    have hcycles := (budgetLeft_iff.1 hleft).1
    rcases undefined_from_pc_or_progress h 65536 with hundef | ⟨k, u, hafter, hu, hprogress⟩
    · exact ⟨0, s, rfl, hleft, undefinedMemory_of_from_pc hundef⟩
    · obtain ⟨j, v, hafter', hv⟩ := ih _ (by omega) hu rfl
      exact ⟨k + j, v, (loopAfter_add hafter).trans hafter', hv⟩

/-- Settles O27: the two directions are `exists_undefinedMemory_of_hangs` and, back along the instructions before,
`hangs_of_undefinedMemory`. -/
theorem tickHangsExactlyOnUndefinedMemory : Obligations.TickHangsExactlyOnUndefinedMemory := by
  unfold Obligations.TickHangsExactlyOnUndefinedMemory
  simp only [← mem_definedOpcodes_iff]
  refine fun s => ⟨fun h => ?_, fun ⟨k, u, hafter, hcycles, hgoing, hundef⟩ => ?_⟩
  · obtain ⟨k, u, hafter, hleft, hundef⟩ := exists_undefinedMemory_of_hangs h
    obtain ⟨hcycles, hgoing⟩ := budgetLeft_iff.1 hleft
    exact ⟨k, u, hafter, hcycles, hgoing, hundef⟩
  · exact hangs_of_loopAfter hafter (hangs_of_undefinedMemory (budgetLeft_iff.2 ⟨hcycles, hgoing⟩) hundef)

end Sys2Proof.Machine
end

section
/-! PROOF. The steps refine the atomic `Tick` and `StepFrame` (45_frame_scheduler.md R133, 46_host_interface.md R162; log 7): once a step
has begun a frame body, the budget loop is a run inside it, and its end the last step. -/

namespace Sys2Proof.Machine

/-- The same frame body goes on: no instruction changes the phase, `running` or the inputs to come. -/
structure SameFrameBody (s t : State) : Prop where
  phase : t.phase = s.phase
  running : t.running = s.running
  inputs : t.inputs = s.inputs

/-- A frame body that has not moved is the same. -/
theorem SameFrameBody.refl (s : State) : SameFrameBody s s := ⟨rfl, rfl, rfl⟩

/-- A frame body goes on through an instruction. -/
theorem SameFrameBody.of_runInstr {s t : State} (h : SameFrameBody s.runInstr t) : SameFrameBody s t where
  phase := h.phase.trans s.runInstr_phase
  running := h.running.trans s.runInstr_running
  inputs := h.inputs.trans s.runInstr_inputs

/-- An instruction stays inside the frame body. -/
theorem inFrame_runInstr {s : State} (h : InFrame s) : InFrame s.runInstr := by
  rwa [InFrame, s.runInstr_phase]

section
variable {c : Config}

/-- Inside a frame body, with budget left, a run goes on after one instruction. -/
theorem runSteps_succ_of_budgetLeft {s : State} (hframe : InFrame s) (hleft : budgetLeft s = true) (n : Nat) :
    runSteps c (n + 1) s = runSteps c n s.runInstr :=
  runSteps_succ_of_next ((stepWith_of_budgetLeft hframe hleft).trans (loopBody_of_budgetLeft hleft))

/-- A budget loop that ends is a run of no more steps than it has instructions, all inside the frame body. -/
theorem runSteps_of_budgetLoop {fuel : Nat} {s u : State} (hframe : InFrame s) (h : budgetLoop fuel s = some u) :
    ∃ n ≤ fuel, runSteps c n s = .next u ∧ budgetLeft u = false ∧
      ∀ m ≤ n, ∃ v, runSteps c m s = .next v ∧ SameFrameBody s v := by
  induction fuel using Nat.strong_induction_on generalizing s with
  | _ fuel ih =>
    rcases budgetLoop_some h with ⟨hleft, fuel', rfl, hloop⟩ | ⟨hspent, rfl⟩
    · obtain ⟨n, hn, hrun, hspent, hinside⟩ := ih fuel' (Nat.lt_succ_self _) (inFrame_runInstr hframe) hloop
      refine ⟨n + 1, by omega, (runSteps_succ_of_budgetLeft hframe hleft n).trans hrun, hspent, fun m hm => ?_⟩
      cases m with
      | zero => exact ⟨s, rfl, .refl s⟩
      | succ m =>
        obtain ⟨v, hv, hsame⟩ := hinside m (by omega)
        exact ⟨v, (runSteps_succ_of_budgetLeft hframe hleft m).trans hv, hsame.of_runInstr⟩
    · exact ⟨0, Nat.zero_le _, rfl, hspent, fun m hm => ⟨u, by rw [Nat.le_zero.1 hm]; rfl, .refl u⟩⟩

/-- A budget loop that never ends is a run that never leaves the frame body. -/
theorem runSteps_of_hangs {s : State} (hframe : InFrame s) (h : Hangs s) (n : Nat) :
    ∃ v, runSteps c n s = .next v ∧ SameFrameBody s v := by
  induction n generalizing s with
  | zero => exact ⟨s, rfl, .refl s⟩
  | succ n ih =>
    obtain ⟨hleft, hnext⟩ := hangs_iff.1 h
    obtain ⟨v, hv, hsame⟩ := ih (inFrame_runInstr hframe) hnext
    exact ⟨v, (runSteps_succ_of_budgetLeft hframe hleft n).trans hv, hsame.of_runInstr⟩

variable {s u : State} {phase : Phase} (hframe : InFrame (u.beginFrame phase))
  (hbegins : stepWith c s = .next (u.beginFrame phase))
include hframe hbegins

/-- A frame body that ends, once begun by a step, is a run whose steps are all inside it until its last, which is its end. -/
theorem runSteps_of_frameBody {fuel : Nat} {t : State} (h : frameBody c fuel phase u = some t) :
    ∃ n ≤ fuel + 2, runSteps c n s = .next t ∧
      (∃ w, SameFrameBody (u.beginFrame phase) w ∧ t = finishFrame c w) ∧
      ∀ m, 0 < m → m < n → ∃ v, runSteps c m s = .next v ∧ SameFrameBody (u.beginFrame phase) v := by
  obtain ⟨w, hloop, rfl⟩ := frameBody_some h
  obtain ⟨n, hn, hrun, hspent, hinside⟩ := runSteps_of_budgetLoop (c := c) hframe hloop
  obtain ⟨w', hw', hsame⟩ := hinside n (Nat.le_refl n)
  obtain rfl := Host.Outcome.next.inj (hrun.symm.trans hw')
  have hframe' : InFrame w := by rwa [InFrame, hsame.phase]
  have hend : runSteps c (n + 1) (u.beginFrame phase) = .next (finishFrame c w) :=
    (runSteps_add hrun).trans (runSteps_succ_of_next (stepWith_of_budgetSpent hframe' hspent))
  refine ⟨n + 1 + 1, by omega, (runSteps_succ_of_next hbegins).trans hend, ⟨w, hsame, rfl⟩, fun m hpos hm => ?_⟩
  obtain ⟨j, rfl⟩ : ∃ j, m = j + 1 := ⟨m - 1, by omega⟩
  rw [runSteps_succ_of_next hbegins]
  exact hinside j (by omega)

/-- A frame body that never ends, once begun by a step, is a run that never leaves it. -/
theorem runSteps_of_frameBody_hangs (h : ∀ fuel, frameBody c fuel phase u = none) (n : Nat) (hpos : 0 < n) :
    ∃ v, runSteps c n s = .next v ∧ SameFrameBody (u.beginFrame phase) v := by
  obtain ⟨j, rfl⟩ : ∃ j, n = j + 1 := ⟨n - 1, by omega⟩
  rw [runSteps_succ_of_next hbegins]
  exact runSteps_of_hangs hframe (fun fuel => Option.map_eq_none_iff.1 (h fuel)) j

end

/-- The end of a frame body leaves the inputs to come. -/
@[simp] theorem finishFrame_inputs (c : Config) (s : State) : (finishFrame c s).inputs = s.inputs := by
  rw [finishFrame_eq]

/-- The atomic tick of a Running machine is a frame body (R133). -/
theorem tick_of_running {c : Config} {s : State} (h : s.running = true) (fuel : Nat) :
    tick c fuel s = frameBody c fuel .inTick s := if_pos h

/-- A tick that a step begins is refined by the steps, whichever input began it. -/
theorem steps_refine_tick {c : Config} {s u : State} (hrunning : u.running = true)
    (hbegins : stepWith c s = .next (u.beginFrame .inTick)) :
    (∀ (fuel : Nat) (t : State), tick c fuel u = some t →
      ∃ n, n ≤ fuel + 2 ∧ runSteps c n s = .next t ∧ t.phase = .between ∧ t.inputs = u.inputs ∧
        ∀ m, 0 < m → m < n → ∃ v, runSteps c m s = .next v ∧ v.phase = .inTick ∧ v.inputs = u.inputs) ∧
    ((∀ fuel, tick c fuel u = none) →
      ∀ n, 0 < n → ∃ v, runSteps c n s = .next v ∧ v.phase = .inTick ∧ v.inputs = u.inputs) := by
  have hframe : InFrame (u.beginFrame .inTick) := .inl rfl
  simp only [tick_of_running hrunning]
  refine ⟨fun fuel t h => ?ends, fun h n hpos => ?hangs⟩
  case ends =>
    obtain ⟨n, hn, hrun, ⟨w, hsame, rfl⟩, hinside⟩ := runSteps_of_frameBody hframe hbegins h
    refine ⟨n, hn, hrun, finishFrame_phase c w, (finishFrame_inputs c w).trans hsame.inputs, fun m hpos hm => ?_⟩
    obtain ⟨v, hv, hsame⟩ := hinside m hpos hm
    exact ⟨v, hv, hsame.phase, hsame.inputs⟩
  case hangs =>
    obtain ⟨v, hv, hsame⟩ := runSteps_of_frameBody_hangs hframe hbegins h n hpos
    exact ⟨v, hv, hsame.phase, hsame.inputs⟩

/-- Settles O53: the step that takes the timer input begins the tick, and `steps_refine_tick` is the rest. -/
theorem timerTicksRefineTheAtomicTick : Obligations.TimerTicksRefineTheAtomicTick := by
  unfold Obligations.TimerTicksRefineTheAtomicTick
  intro c s rest hbetween hinputs hrunning
  have hrunning' : (s.setInputs rest).running = true := hrunning
  have hbegins : stepWith c s = .next ((s.setInputs rest).beginFrame .inTick) :=
    (stepWith_of_timer hbetween hinputs).trans (congrArg _ (timerFires_of_running hrunning'))
  exact steps_refine_tick hrunning' hbegins

/-- Settles O26: the step with no input begins the tick, and `steps_refine_tick` is the rest. -/
theorem stepsRefineTheAtomicTick : Obligations.StepsRefineTheAtomicTick := by
  unfold Obligations.StepsRefineTheAtomicTick
  intro c s hbetween hinputs hrunning
  have hbegins : stepWith c s = .next (s.beginFrame .inTick) :=
    (stepWith_of_noInputs hbetween hinputs).trans (congrArg _ (timerFires_of_running hrunning))
  obtain ⟨hends, hhangs⟩ := steps_refine_tick hrunning hbegins
  refine ⟨fun fuel t h => ?ends, fun h n hpos => ?hangs⟩
  case ends =>
    obtain ⟨n, hn, hrun, hphase, -, hinside⟩ := hends fuel t h
    refine ⟨n, hn, hrun, hphase, fun m hpos hm => ?_⟩
    obtain ⟨v, hv, hvphase, -⟩ := hinside m hpos hm
    exact ⟨v, hv, hvphase⟩
  case hangs =>
    obtain ⟨v, hv, hvphase, -⟩ := hhangs h n hpos
    exact ⟨v, hv, hvphase⟩

/-- The atomic `StepFrame` of a Stopped machine on a halted CPU does nothing (46_host_interface.md R162). -/
theorem stepFrame_of_halted {c : Config} {s : State} (hstopped : s.running = false) (hhalted : s.halted = true) (fuel : Nat) :
    stepFrame c fuel s = some s := by
  simp [stepFrame, hstopped, hhalted]

/-- The atomic `StepFrame` of a Stopped machine on a CPU that is not halted is a frame body (46_host_interface.md R162). -/
theorem stepFrame_of_not_halted {c : Config} {s : State} (hstopped : s.running = false) (hgoing : s.halted = false) (fuel : Nat) :
    stepFrame c fuel s = frameBody c fuel .inStepFrame s := by
  simp [stepFrame, hstopped, hgoing]

/-- The host's `StepFrame` of a Stopped machine on a halted CPU does nothing. -/
theorem hostCall_stepFrame_of_halted {c : Config} {s : State} (hstopped : s.running = false) (hhalted : s.halted = true) :
    hostCall c .stepFrame s = .next s := by
  rw [hostCall, whileStopped_of_stopped hstopped, if_pos hhalted]

/-- The host's `StepFrame` of a Stopped machine on a CPU that is not halted begins a frame body. -/
theorem hostCall_stepFrame_of_not_halted {c : Config} {s : State} (hstopped : s.running = false) (hgoing : s.halted = false) :
    hostCall c .stepFrame s = .next (s.beginFrame .inStepFrame) := by
  rw [hostCall, whileStopped_of_stopped hstopped, if_neg (by simp [hgoing])]

/-- A `StepFrame` on a CPU that is not halted, once begun by a step, is refined by the steps, Stopped throughout. -/
theorem steps_refine_stepFrame {c : Config} {s u : State} (hstopped : u.running = false) (hgoing : u.halted = false)
    (hbegins : stepWith c s = .next (u.beginFrame .inStepFrame)) :
    (∀ (fuel : Nat) (t : State), stepFrame c fuel u = some t →
      ∃ n, n ≤ fuel + 2 ∧ runSteps c n s = .next t ∧ t.phase = .between ∧ t.running = false ∧ t.inputs = u.inputs ∧
        ∀ m, 0 < m → m < n →
          ∃ v, runSteps c m s = .next v ∧ v.phase = .inStepFrame ∧ v.running = false ∧ v.inputs = u.inputs) ∧
    ((∀ fuel, stepFrame c fuel u = none) →
      ∀ n, 0 < n → ∃ v, runSteps c n s = .next v ∧ v.phase = .inStepFrame ∧ v.running = false ∧ v.inputs = u.inputs) := by
  have hframe : InFrame (u.beginFrame .inStepFrame) := .inr rfl
  simp only [stepFrame_of_not_halted hstopped hgoing]
  refine ⟨fun fuel t h => ?ends, fun h n hpos => ?hangs⟩
  case ends =>
    obtain ⟨n, hn, hrun, ⟨w, hsame, rfl⟩, hinside⟩ := runSteps_of_frameBody hframe hbegins h
    have hwphase : w.phase = .inStepFrame := hsame.phase
    have hwrunning : (finishFrame c w).running = false := by
      rw [finishFrame_running, if_neg (by simp [hwphase]), hsame.running]
      exact hstopped
    refine ⟨n, hn, hrun, finishFrame_phase c w, hwrunning, (finishFrame_inputs c w).trans hsame.inputs, fun m hpos hm => ?_⟩
    obtain ⟨v, hv, hsame⟩ := hinside m hpos hm
    exact ⟨v, hv, hsame.phase, hsame.running.trans hstopped, hsame.inputs⟩
  case hangs =>
    obtain ⟨v, hv, hsame⟩ := runSteps_of_frameBody_hangs hframe hbegins h n hpos
    exact ⟨v, hv, hsame.phase, hsame.running.trans hstopped, hsame.inputs⟩

/-- Settles O54: the step is the host's `StepFrame`. On a halted CPU it is the one step of the run; else it begins the frame body, and
`steps_refine_stepFrame` is the rest. -/
theorem stepsRefineTheAtomicStepFrame : Obligations.StepsRefineTheAtomicStepFrame := by
  unfold Obligations.StepsRefineTheAtomicStepFrame
  intro c s rest hbetween hinputs hstopped
  have hstopped' : (s.setInputs rest).running = false := hstopped
  have hstep : stepWith c s = hostCall c .stepFrame (s.setInputs rest) := stepWith_of_host hbetween hinputs
  rcases Bool.eq_false_or_eq_true s.halted with hhalted | hgoing
  · have hnothing : stepWith c s = .next (s.setInputs rest) := hstep.trans (hostCall_stepFrame_of_halted hstopped' hhalted)
    have hatomic (fuel : Nat) : stepFrame c fuel (s.setInputs rest) = some (s.setInputs rest) :=
      stepFrame_of_halted hstopped' hhalted fuel
    refine ⟨fun _ => ⟨hatomic 0, hnothing⟩, fun fuel t h => ?_, fun h => absurd ((hatomic 0).symm.trans (h 0)) nofun⟩
    obtain rfl := Option.some.inj ((hatomic fuel).symm.trans h)
    exact ⟨1, by omega, runSteps_succ_of_next hnothing, hbetween, hstopped, rfl, fun m hpos hm => absurd hpos (by omega)⟩
  · exact ⟨fun hhalted => absurd (hgoing.symm.trans hhalted) nofun, steps_refine_stepFrame hstopped' hgoing
      (hstep.trans (hostCall_stepFrame_of_not_halted hstopped' hgoing))⟩

end Sys2Proof.Machine
end

section
/-! PROOF. The closed form of a frame (44_ppu_raster.md section 1, R124), its offsets under an admitted configuration (43_ppu_tile_decode.md
R114), and the frame of an empty `Vram`. -/

namespace Sys2Proof.Machine

/-- What a frame paints at a pixel of the screen: the colour its map cell, its tile and the palette give, if any (R120, R122, R123). -/
theorem mem_framePaints_pixel {c : Config} {vram : List Host.Cell} {pal : List Rgb} {y x : Nat} (hy : y < 224) (hx : x < 256)
    (rgb : Rgb) :
    (pixelKey y x, rgb) ∈ framePaints c vram pal ↔
      paletteLookup pal (tilePixel (decodeTile vram (mapEntry c vram (y / 8) (x / 8))) (y % 8) (x % 8)) = some rgb := by
  rw [mem_framePaints]
  simp only [Config.mapRows, Config.mapCols, Config.tileH, Config.tileW, pixelKey, Config.screenW]
  constructor
  · rintro ⟨row, hrow, col, hcol, r, hr, k, hk, hcolor, hkey⟩
    obtain rfl : row = y / 8 := by omega
    obtain rfl : col = x / 8 := by omega
    obtain rfl : r = y % 8 := by omega
    obtain rfl : k = x % 8 := by omega
    exact hcolor
  · intro hcolor
    exact ⟨y / 8, by omega, x / 8, by omega, y % 8, by omega, x % 8, by omega, hcolor, by omega⟩

/-- A pixel of a rendered frame is what the frame paints there, unpainted if that is nothing: the framebuffer is cleared first (R121,
decision D18). -/
theorem fbPixel_renderedFb {c : Config} {vram : List Host.Cell} {pal : List Rgb} {y x : Nat} (hy : y < 224) (hx : x < 256) :
    fbPixel (renderedFb c vram pal) y x =
      paletteLookup pal (tilePixel (decodeTile vram (mapEntry c vram (y / 8) (x / 8))) (y % 8) (x % 8)) := by
  have hpaints (rgb : Rgb) := mem_framePaints_pixel (c := c) (vram := vram) (pal := pal) hy hx rgb
  rw [fbPixel, renderedFb]
  generalize paletteLookup pal (tilePixel (decodeTile vram (mapEntry c vram (y / 8) (x / 8))) (y % 8) (x % 8)) = color at hpaints
  cases color with
  | none =>
    refine lookup_paintAll_of_notMem fun e he hkey => ?_
    have := (hpaints e.2).1 (hkey ▸ he)
    cases this
  | some rgb =>
    refine lookup_paintAll_of_mem ((hpaints rgb).2 rfl) fun e he hkey => ?_
    exact (Option.some.inj ((hpaints e.2).1 (hkey ▸ he))).symm

/-- `PaletteLookup` by the colour index as a number (43_ppu_tile_decode.md R113). -/
theorem paletteLookup_eq (pal : List Rgb) (ci : BitVec 2) :
    paletteLookup pal ci = if ci.toNat = 0 then none else pal[ci.toNat]? := by
  by_cases h : ci = 0
  · subst h
    rfl
  · have hnat : ci.toNat ≠ 0 := fun hnat => h (BitVec.eq_of_toNat_eq hnat)
    rw [paletteLookup_of_ne_zero pal h, if_neg hnat]

/-- A bit of a byte as a number. -/
theorem toNat_getLsbD (v : Byte) (i : Nat) : (v.getLsbD i).toNat = v.toNat / 2 ^ i % 2 := Nat.toNat_testBit v.toNat i

/-- Settles O37: a pixel is what the frame paints there, and the colour index of the cell's tile is that of the closed form, plane by
plane. -/
theorem renderedFrameHasTheClosedForm : Obligations.RenderedFrameHasTheClosedForm := by
  unfold Obligations.RenderedFrameHasTheClosedForm
  intro c s y x hy hx
  have hentry : mapEntry c s.vram (y / 8) (x / 8) = vramRead s.vram (c.tilemapBase + 32 * (y / 8) + x / 8) := by
    rw [mapEntry, Config.mapCols, Nat.mul_comm]
  rw [renderFrame_eq, fbPixel_renderedFb hy hx, paletteLookup_eq, tilePixel_decodeTile (by omega) (by omega), colorIndex_toNat,
    tileBase_eq, hentry, toNat_getLsbD, toNat_getLsbD, Nat.mul_comm 2]
  rfl

/-- Settles O39: the two limits are two of the conditions of admission; under it the offsets are bounded by those limits, and a 2-bit
index by the palette's size. -/
theorem admittedConfigurationsRenderInRange : Obligations.AdmittedConfigurationsRenderInRange := by
  unfold Obligations.AdmittedConfigurationsRenderInRange
  have htilemap (c : Config) : c.tilemapFits = true ↔ c.tilemapBase + 896 ≤ 32768 := decide_eq_true_iff
  have hpalette (c : Config) : c.paletteLargeEnough = true ↔ 4 ≤ c.paletteSize := decide_eq_true_iff
  refine ⟨fun c hout => ?refused, fun c hadmitted => ?inRange⟩
  case refused =>
    refine if_neg fun hadmitted => ?_
    obtain ⟨hfits, hlarge, -⟩ := (admitted_iff c).1 hadmitted
    rw [htilemap] at hfits
    rw [hpalette] at hlarge
    omega
  case inRange =>
    obtain ⟨hfits, hlarge, -⟩ := (admitted_iff c).1 hadmitted
    rw [htilemap] at hfits
    rw [hpalette] at hlarge
    refine ⟨if_pos hadmitted, fun row col hrow hcol => by omega, fun t r hr => ?pattern, fun s ci hinv => ?index⟩
    case pattern =>
      have ht : t.toNat < 256 := t.isLt
      rw [tileBase_eq]
      omega
    case index =>
      have hci : ci.toNat < 4 := ci.isLt
      rw [hinv.palSize]
      omega

/-- Nothing is painted from an empty `Vram`: every colour index is 0 (decision D14). -/
theorem renderedFb_empty (c : Config) (pal : List Rgb) : renderedFb c [] pal = [] := by
  have hnone : framePaints c [] pal = [] := by
    refine List.eq_nil_iff_forall_not_mem.2 fun e he => ?_
    obtain ⟨row, -, col, -, r, hr, k, hk, hcolor, -⟩ := mem_framePaints.1 he
    have hzero (bit : Nat) : colorIndex Memory.unlisted Memory.unlisted bit = 0 := by
      apply BitVec.eq_of_toNat_eq
      simp [colorIndex_toNat, Memory.unlisted]
    rw [tilePixel_decodeTile hr hk, vramRead, vramRead, Memory.readByte_nil, Memory.readByte_nil, hzero, paletteLookup_zero] at hcolor
    cases hcolor
  rw [renderedFb, hnone]
  rfl

end Sys2Proof.Machine
end

section
/-! PROOF. The host's operations between ticks (46_host_interface.md R150 to R162), the resets (70_reset_and_hazards.md) and the images
loaders make (46_host_interface.md R156). -/

namespace Sys2Proof.Machine

/-- While Running a setup operation is refused (46_host_interface.md R150). -/
theorem whileStopped_of_running {s : State} (h : s.running = true) (o : Host.Outcome State Fault Refusal) :
    whileStopped s o = .refused .hostOperationWhileRunning := if_pos h

/-- An argument within its limit is taken. -/
theorem withinLimit_of_le {n limit : Nat} (h : n ≤ limit) (t : State) : withinLimit n limit t = .next t := if_pos h

/-- An argument past its limit is refused. -/
theorem withinLimit_of_lt {n limit : Nat} (h : limit < n) (t : State) : withinLimit n limit t = .refused .argumentTooLong :=
  if_neg (Nat.not_le.2 h)

/-- Settles O45: while Running `whileStopped` refuses; the other operations answer outright. -/
theorem setupOperationsAreRefusedWhileRunning : Obligations.SetupOperationsAreRefusedWhileRunning := by
  unfold Obligations.SetupOperationsAreRefusedWhileRunning
  intro c op s
  cases op with
  | start => exact ⟨_, rfl⟩
  | stop => exact ⟨_, rfl⟩
  | coldReset => exact ⟨_, rfl⟩
  | snapshotRegisters => exact rfl
  | disassembleWindow center radius => exact rfl
  | loadProgram bytes origin => exact fun hrunning => whileStopped_of_running hrunning _
  | setResetVector address => exact fun hrunning => whileStopped_of_running hrunning _
  | loadTiles bytes => exact fun hrunning => whileStopped_of_running hrunning _
  | loadTileMap bytes => exact fun hrunning => whileStopped_of_running hrunning _
  | setPalette colors => exact fun hrunning => whileStopped_of_running hrunning _
  | warmReset => exact fun hrunning => whileStopped_of_running hrunning _
  | stepFrame => exact fun hrunning => whileStopped_of_running hrunning _

/-- Settles O46: `Start` and `StepFrame` by `halted`, `Stop` outright. -/
theorem startStopAndStepFrame : Obligations.StartStopAndStepFrame := by
  unfold Obligations.StartStopAndStepFrame
  exact fun c s => ⟨fun hgoing => congrArg _ (start_of_not_halted hgoing), fun hhalted => congrArg _ (start_of_halted hhalted), rfl,
    fun hstopped hhalted => hostCall_stepFrame_of_halted hstopped hhalted,
    fun hstopped hgoing => hostCall_stepFrame_of_not_halted hstopped hgoing⟩

/-- Settles O47: a warm reset writes the word at the vector to PC, whose number is `joinBytes_toNat`. -/
theorem warmResetLoadsPcFromTheVector : Obligations.WarmResetLoadsPcFromTheVector := by
  unfold Obligations.WarmResetLoadsPcFromTheVector
  exact fun c s hstopped => ⟨s.readWord Config.resetVector, whileStopped_of_stopped hstopped _, joinBytes_toNat _ _⟩

/-- Settles O48: the fields of power-on; its memories and framebuffer list nothing. -/
theorem powerOnSetsEveryElement : Obligations.PowerOnSetsEveryElement := by
  unfold Obligations.PowerOnSetsEveryElement
  exact fun c => ⟨rfl, rfl, rfl, rfl, rfl, rfl, rfl, rfl, rfl, fun _ => rfl, fun _ => rfl, List.length_replicate,
    fun _ hrgb => List.eq_of_mem_replicate hrgb, fun _ _ => rfl⟩

/-- Settles O49: the fields of `coldReset_eq`, with PC by the parameter. -/
theorem coldResetRebuildsFromTheImage : Obligations.ColdResetRebuildsFromTheImage := by
  unfold Obligations.ColdResetRebuildsFromTheImage
  refine fun c s => ⟨coldReset c s, rfl, ?_⟩
  rw [coldReset_eq]
  refine ⟨rfl, rfl, rfl, rfl, rfl, rfl, rfl, rfl, rfl, rfl, rfl, rfl, fun _ _ => rfl, fun hboot => ?boot, fun hvector => ?vector⟩
  case boot => exact if_neg (by simp [hboot])
  case vector => exact (congrArg BitVec.toNat (if_pos hvector)).trans (joinBytes_toNat _ _)

/-- Settles O41: while Stopped and within the limit the operation is `State.writeAll`, whose bytes are those of `State.read_writeAll`; it
changes `Mem` only. -/
theorem loadProgramStoresItsBytes : Obligations.LoadProgramStoresItsBytes := by
  unfold Obligations.LoadProgramStoresItsBytes
  intro c s bytes origin hstopped
  rw [hostCall, whileStopped_of_stopped hstopped]
  refine ⟨fun hlength => ?taken, fun hlength => withinLimit_of_lt hlength _⟩
  case taken =>
    have hread (a : Addr) := State.read_writeAll s origin bytes hlength a
    have hmem := State.writeAll_eq s origin bytes
    refine ⟨_, withinLimit_of_le hlength _, fun i b hib => ?stored, fun a hoff => ?others, ?cpu, ?outside⟩
    case stored =>
      have hi : i < bytes.length := (List.getElem?_eq_some_iff.1 hib).1
      have hoffset : (origin + BitVec.ofNat 16 i - origin).toNat = i := by
        rw [BitVec.add_comm, BitVec.add_sub_cancel, BitVec.toNat_ofNat]
        omega
      rw [hread, hoffset, hib, Option.getD_some]
    case others => rw [hread, List.getElem?_eq_none hoff, Option.getD_none]
    case cpu =>
      rw [hmem]
      exact ⟨rfl, rfl, rfl, rfl⟩
    case outside =>
      rw [hmem]
      exact ⟨rfl, rfl, rfl, rfl, rfl, rfl, rfl, rfl, rfl, rfl, rfl, rfl, rfl, rfl⟩

/-- The bytes of a sequence stand in `Vram` from the offset they were stored at (46_host_interface.md R153, R154). -/
theorem vramRead_writeBytes_of_getElem? (vram : List Host.Cell) (k : Nat) {bytes : List Byte} {i : Nat} {b : Byte}
    (h : bytes[i]? = some b) : vramRead (Memory.writeBytes vram k bytes) (k + i) = b := by
  have hi : i < bytes.length := (List.getElem?_eq_some_iff.1 h).1
  rw [vramRead, Memory.readByte_writeBytes, if_pos (by omega), Nat.add_sub_cancel_left, List.getD_eq_getElem?_getD, h, Option.getD_some]

/-- Outside the bytes stored `Vram` reads as before (46_host_interface.md R153, R154). -/
theorem vramRead_writeBytes_of_outside (vram : List Host.Cell) (k : Nat) (bytes : List Byte) {off : Nat}
    (h : off < k ∨ k + bytes.length ≤ off) : vramRead (Memory.writeBytes vram k bytes) off = vramRead vram off := by
  rw [vramRead, Memory.readByte_writeBytes, if_neg (by omega), vramRead]

/-- Settles O43: while Stopped and within the limit each loader is `Memory.writeBytes` from its offset. -/
theorem tileLoadersStoreTheirBytes : Obligations.TileLoadersStoreTheirBytes := by
  unfold Obligations.TileLoadersStoreTheirBytes
  intro c s bytes hstopped
  simp only [hostCall, whileStopped_of_stopped hstopped]
  refine ⟨fun hlength => ?tiles, fun hlength => withinLimit_of_lt hlength _, fun hlength => ?tileMap, fun hadmitted hlength => ?refused⟩
  case tiles =>
    refine ⟨_, withinLimit_of_le hlength _, fun i b hib => ?_, fun off hoff => ?_⟩
    · have hstored := vramRead_writeBytes_of_getElem? s.vram Config.patternBase hib
      rwa [Config.patternBase, Nat.zero_add] at hstored
    · exact vramRead_writeBytes_of_outside s.vram Config.patternBase bytes (.inr (by rwa [Config.patternBase, Nat.zero_add]))
  case tileMap =>
    have hlimit : bytes.length ≤ Config.vramSize - c.tilemapBase := by rw [Config.vramSize]; omega
    exact ⟨_, withinLimit_of_le hlimit _, fun i b hib => vramRead_writeBytes_of_getElem? s.vram c.tilemapBase hib,
      fun off hoff => vramRead_writeBytes_of_outside s.vram c.tilemapBase bytes hoff⟩
  case refused =>
    have hfits : c.tilemapBase + 896 ≤ 32768 := of_decide_eq_true ((admitted_iff c).1 hadmitted).1
    exact withinLimit_of_lt (by rw [Config.vramSize]; omega) _

/-- Settles O44: while Stopped and within the limit the palette becomes the colours and then its own entries past them. -/
theorem setPaletteStoresFromEntryZero : Obligations.SetPaletteStoresFromEntryZero := by
  unfold Obligations.SetPaletteStoresFromEntryZero
  intro c s colors hstopped
  rw [hostCall, whileStopped_of_stopped hstopped]
  refine ⟨fun hlength => ⟨_, withinLimit_of_le hlength _, fun i rgb hrgb => ?stored, fun i hi => ?others⟩,
    fun hlength => withinLimit_of_lt hlength _⟩
  case stored => rw [List.getElem?_append_left (List.getElem?_eq_some_iff.1 hrgb).1, hrgb]
  case others => rw [List.getElem?_append_right hi, List.getElem?_drop, Nat.add_sub_cancel' hi]

/-- Every state of a loader sequence has fitting memories if the first has. -/
theorem runLoaders_memoriesFit {c : Config} (htilemap : c.tilemapFits = true) {ops : List HostOp} {s t : State}
    (hfit : MemoriesFit c s.mem s.vram s.pal) (h : runLoaders c ops s = some t) : MemoriesFit c t.mem t.vram t.pal := by
  induction ops generalizing s with
  | nil =>
    obtain rfl := Option.some.inj h
    exact hfit
  | cons op ops ih =>
    rw [runLoaders] at h
    split at h
    next hloader =>
      have hreset : op ≠ .coldReset := by
        rintro rfl
        cases hloader
      split at h
      next u hcall => exact ih (hostCall_memoriesFit htilemap hfit hreset hcall) h
      next f _ => exact nomatch f
      next => cases h
    next => cases h

/-- Settles O50: power-on has fitting memories, every loader keeps that, and it is all the shape of an image asks for. -/
theorem loaderSequencesMakeAdmittedImages : Obligations.LoaderSequencesMakeAdmittedImages := by
  unfold Obligations.LoaderSequencesMakeAdmittedImages
  intro c ops image htilemap hpalette himage
  obtain ⟨t, hrun, rfl⟩ := Option.map_eq_some_iff.1 himage
  have hfit := runLoaders_memoriesFit htilemap (memoriesFit_powerOn c) hrun
  exact (admitted_iff _).2 ⟨htilemap, hpalette, (imageShaped_iff _).2 { hfit with }⟩

/-- What the window holds: the bytes within the radius, clamped to the address space (46_host_interface.md R161). -/
theorem mem_disassembleWindow_iff {s : State} {center : Addr} {radius a : Nat} {b : Byte} :
    (a, b) ∈ disassembleWindow s center radius ↔
      center.toNat ≤ a + radius ∧ a ≤ center.toNat + radius ∧ a < 65536 ∧ Memory.readByte s.mem a = b := by
  have hcenter : center.toNat < 65536 := center.isLt
  simp only [disassembleWindow, List.mem_map, List.mem_range, Prod.mk.injEq]
  constructor
  · rintro ⟨i, hi, rfl, rfl⟩
    exact ⟨by omega, by omega, by omega, rfl⟩
  · rintro ⟨hlow, hhigh, hspace, rfl⟩
    have hi : center.toNat - radius + (a - (center.toNat - radius)) = a := by omega
    exact ⟨a - (center.toNat - radius), by omega, hi, by rw [hi]⟩

/-- A byte of `Mem` by the number of its address. -/
theorem exists_addr_read_iff {s : State} {a : Nat} {b : Byte} :
    (∃ addr : Addr, addr.toNat = a ∧ s.read addr = b) ↔ a < 65536 ∧ Memory.readByte s.mem a = b := by
  constructor
  · rintro ⟨addr, rfl, rfl⟩
    exact ⟨addr.isLt, rfl⟩
  · rintro ⟨ha, rfl⟩
    have haddr : (BitVec.ofNat 16 a).toNat = a := by rw [BitVec.toNat_ofNat]; omega
    exact ⟨BitVec.ofNat 16 a, haddr, by rw [State.read, haddr]⟩

/-- Settles O51: the snapshot is its fields; the window is `mem_disassembleWindow_iff`, its addresses those of a rising range. -/
theorem readBacksShowRegistersAndMemory : Obligations.ReadBacksShowRegistersAndMemory := by
  unfold Obligations.ReadBacksShowRegistersAndMemory
  refine fun s => ⟨rfl, fun center radius => ⟨_, rfl, fun a b => ?members, ?rising⟩⟩
  case members => rw [exists_addr_read_iff, mem_disassembleWindow_iff]
  case rising => exact List.pairwise_map.2 (List.pairwise_lt_range.imp fun hlt => Nat.add_lt_add_left hlt _)

/-- Settles O52: `Start`, the beginning of the tick, BRK, and the end of the frame, which paints nothing. -/
theorem unloadedMachineHaltsInItsFirstTick : Obligations.UnloadedMachineHaltsInItsFirstTick := by
  unfold Obligations.UnloadedMachineHaltsInItsFirstTick
  intro c
  have hstart : stepWith c { State.powerOn c with inputs := [.host .start] } = .next ((State.powerOn c).setRunning true) := rfl
  have hbegin : stepWith c ((State.powerOn c).setRunning true) =
      .next (((State.powerOn c).setRunning true).beginFrame .inTick) := rfl
  generalize hu : ((State.powerOn c).setRunning true).beginFrame .inTick = u at hbegin
  have hleft : budgetLeft u = true := by rw [← hu]; rfl
  have hframe : InFrame u := .inl (by rw [← hu]; rfl)
  have hbrk : u.runInstr = (u.advancePc 1).halt.addCycles 7 := by
    rw [State.runInstr, fetchInstr_of_brk (by rw [← hu]; rfl)]
    rfl
  have hspent : budgetLeft u.runInstr = false := budgetLeft_eq_false_iff.2 (.inr (by rw [hbrk]; rfl))
  refine ⟨finishFrame c u.runInstr, ?run, ?_⟩
  case run =>
    rw [runSteps_succ_of_next hstart, runSteps_succ_of_next hbegin, runSteps_succ_of_budgetLeft hframe hleft,
      runSteps_succ_of_next (stepWith_of_budgetSpent (inFrame_runInstr hframe) hspent), runSteps_zero]
  have hdrawn : renderedFb c u.runInstr.vram u.runInstr.pal = [] := by
    rw [State.runInstr_vram, ← hu]
    exact renderedFb_empty c _
  rw [finishFrame_eq, hdrawn, hbrk, ← hu]
  exact ⟨rfl, rfl, rfl, rfl, rfl, fun _ _ => rfl, rfl⟩

end Sys2Proof.Machine
end
